-- ==== Sys2Proof/Word.lean ====
section
/-! DEFINITION. The machine's word types and their plainest arithmetic (spec 00_scope R9, R10). -/

namespace Sys2Proof

/-- A 32-bit register or memory word (00_scope R7 `REG_W`). -/
abbrev Word := BitVec 32

/-- One byte of memory, one pixel, one mark. -/
abbrev Byte := BitVec 8

/-- `wrap_u32` of 00_scope R9: the value mod 2^32. -/
def wrapU32 (v : Int) : Int := v % 4294967296

/-- `wrap_i32` of 00_scope R9: the unique signed 32-bit integer congruent to `v` mod 2^32. -/
def wrapI32 (v : Int) : Int := Int.bmod v 4294967296

/-- `clamp` of 00_scope R10. -/
def clampInt (v lo hi : Int) : Int := min (max v lo) hi

end Sys2Proof
end

