-- ==== Sys2Proof/Syntax.lean ====
section
/-! DEFINITION. The commands: one constructor for each row of spec/opcode_table.json (30_encoding R81).
A command word has no operand field (R80): every operand is a parameter register (R83). -/

namespace Sys2Proof

/-- The eleven commands of 30_encoding R81, in the order of their opcodes. -/
inductive Instr where
  | detect
  | score
  | extract
  | extractBkt
  | gridBucket
  | gridReduce
  | gridIndex
  | gridQuery
  | centroid
  | atan2
  | describe
  deriving DecidableEq, Repr

end Sys2Proof
end

