-- ==== Sys2Proof/Decode.lean ====
section
/-! DEFINITION. The command word: its decoder, total on every word and rejecting by name, and its encoder
(spec 30_encoding R80 to R82). -/

namespace Sys2Proof

/-- Why a command word stands for no command (30_encoding R82); each raises BAD_OPCODE. -/
inductive DecodeError where
  /-- RSVD ≠ 0 -/
  | reservedBits
  /-- OP is 0x00 or 0x0C .. 0xFF -/
  | unassignedOpcode
  deriving DecidableEq, Repr

/-- The field OP, bits [7:0] (R80). -/
def opField (v : Word) : Byte := v.extractLsb' 0 8

/-- The field RSVD, bits [31:8] (R80). -/
def rsvdField (v : Word) : BitVec 24 := v.extractLsb' 8 24

/-- The command of an opcode (R81). -/
def instrOfOp (op : Byte) : Option Instr :=
  match op.toNat with
  | 0x01 => some .detect
  | 0x02 => some .score
  | 0x03 => some .extract
  | 0x04 => some .extractBkt
  | 0x05 => some .gridBucket
  | 0x06 => some .gridReduce
  | 0x07 => some .gridIndex
  | 0x08 => some .gridQuery
  | 0x09 => some .centroid
  | 0x0A => some .atan2
  | 0x0B => some .describe
  | _ => none

/-- The command a word encodes (R80). -/
def decode (v : Word) : Except DecodeError Instr :=
  if rsvdField v ≠ 0 then .error .reservedBits
  else
    match instrOfOp (opField v) with
    | some i => .ok i
    | none => .error .unassignedOpcode

/-- The decoder on an instruction of `nbits` bits, as spec/opcode_table.json numbers them: a command word is one 32-bit
register value (R80), so bits above 31 that are not 0 make it no command. -/
def decodeTableWord (nbits w : Nat) : Option Instr :=
  if w % 2 ^ nbits < 4294967296 then
    match decode (BitVec.ofNat 32 (w % 2 ^ nbits)) with
    | .ok i => some i
    | .error _ => none
  else none

/-- The opcode of a command (R81). -/
def opOfInstr : Instr → Byte
  | .detect => 0x01
  | .score => 0x02
  | .extract => 0x03
  | .extractBkt => 0x04
  | .gridBucket => 0x05
  | .gridReduce => 0x06
  | .gridIndex => 0x07
  | .gridQuery => 0x08
  | .centroid => 0x09
  | .atan2 => 0x0A
  | .describe => 0x0B

/-- The command word of a command (R80): RSVD = 0 above OP. -/
def encode (i : Instr) : Word := (0 : BitVec 24) ++ opOfInstr i

end Sys2Proof
end

