-- ==== Sys2Proof/Machine/F32.lean ====
section
/-! DEFINITION. IEEE-754 binary32, round to nearest, ties to even, no fused operation, no flush of subnormals
(spec 00_scope R11). A finite number is ±m·2^e with m < 2^24 and e ≥ −149, and m ≥ 2^23 unless e = −149. -/

namespace Sys2Proof.Machine

/-- A binary32 datum. -/
inductive F32 where
  | nan
  | inf (neg : Bool)
  | fin (neg : Bool) (m : Nat) (e : Int)
  deriving DecidableEq, Repr

/-- A signed zero. -/
def F32.zero (neg : Bool) : F32 := .fin neg 0 (-149)

/-- m / 2^shift rounded to nearest, ties to even; `sticky` says that something below m was cut off. -/
def roundShift (m shift : Nat) (sticky : Bool) : Nat :=
  let q := m / 2 ^ shift
  let r := 2 * (m % 2 ^ shift)
  if r < 2 ^ shift then q
  else if 2 ^ shift < r || sticky then q + 1
  else if q % 2 = 0 then q else q + 1

/-- ±m·2^e (a little more in magnitude when `sticky`) rounded to binary32. -/
def roundF32 (neg : Bool) (m : Nat) (e : Int) (sticky : Bool) : F32 :=
  if m = 0 then F32.zero neg
  else
    let e' := max (e + Int.ofNat (Nat.log2 m) - 23) (-149)
    if e' ≤ e then .fin neg (m * 2 ^ (e - e').toNat) e'
    else
      let q := roundShift m (e' - e).toNat sticky
      let n := if q = 16777216 then 8388608 else q
      let x := if q = 16777216 then e' + 1 else e'
      if 104 < x then .inf neg else .fin neg n x

/-- `f32(v)` of R11 for an integer v. -/
def F32.ofInt (v : Int) : F32 := roundF32 (decide (v < 0)) v.natAbs 0 false

/-- The datum a 32-bit encoding stands for. -/
def F32.ofBits (w : Word) : F32 :=
  let neg := w.getLsbD 31
  let e := (w.extractLsb' 23 8).toNat
  let f := (w.extractLsb' 0 23).toNat
  if e = 255 then (if f = 0 then .inf neg else .nan)
  else if e = 0 then .fin neg f (-149)
  else .fin neg (f + 8388608) (Int.ofNat e - 150)

/-- `f32_bits` of R11. Every NaN is given the encoding 0x7FC00000 (assumption 15). -/
def F32.bits : F32 → Word
  | .nan => 0x7FC00000
  | .inf neg => BitVec.ofNat 32 ((if neg then 2147483648 else 0) + 2139095040)
  | .fin neg m e =>
    BitVec.ofNat 32 ((if neg then 2147483648 else 0)
      + (if m < 8388608 then m else (e + 150).toNat * 8388608 + (m - 8388608)))

/-- The signed significand. -/
def signedMant (neg : Bool) (m : Nat) : Int := if neg then -Int.ofNat m else Int.ofNat m

/-- −a. -/
def F32.neg : F32 → F32
  | .nan => .nan
  | .inf s => .inf (!s)
  | .fin s m e => .fin (!s) m e

/-- The exact sum of two finite numbers, over the smaller exponent, as (sum, exponent). -/
def exactSum (s1 : Bool) (m1 : Nat) (e1 : Int) (s2 : Bool) (m2 : Nat) (e2 : Int) : Int × Int :=
  let e := min e1 e2
  (signedMant s1 m1 * 2 ^ (e1 - e).toNat + signedMant s2 m2 * 2 ^ (e2 - e).toNat, e)

/-- `f32_add` of R11. -/
def F32.add : F32 → F32 → F32
  | .nan, _ => .nan
  | _, .nan => .nan
  | .inf s, .inf t => if s = t then .inf s else .nan
  | .inf s, .fin _ _ _ => .inf s
  | .fin _ _ _, .inf t => .inf t
  | .fin s1 m1 e1, .fin s2 m2 e2 =>
    let r := exactSum s1 m1 e1 s2 m2 e2
    if r.1 = 0 then F32.zero (s1 && s2 && m1 = 0 && m2 = 0)
    else roundF32 (decide (r.1 < 0)) r.1.natAbs r.2 false

/-- `f32_sub` of R11. -/
def F32.sub (a b : F32) : F32 := F32.add a (F32.neg b)

/-- `f32_mul` of R11. -/
def F32.mul : F32 → F32 → F32
  | .nan, _ => .nan
  | _, .nan => .nan
  | .inf s, .inf t => .inf (s != t)
  | .inf s, .fin t m _ => if m = 0 then .nan else .inf (s != t)
  | .fin s m _, .inf t => if m = 0 then .nan else .inf (s != t)
  | .fin s1 m1 e1, .fin s2 m2 e2 => roundF32 (s1 != s2) (m1 * m2) (e1 + e2) false

/-- `f32_div` of R11. -/
def F32.div : F32 → F32 → F32
  | .nan, _ => .nan
  | _, .nan => .nan
  | .inf _, .inf _ => .nan
  | .inf s, .fin t _ _ => .inf (s != t)
  | .fin s _ _, .inf t => F32.zero (s != t)
  | .fin s1 m1 e1, .fin s2 m2 e2 =>
    if m2 = 0 then (if m1 = 0 then .nan else .inf (s1 != s2))
    else
      roundF32 (s1 != s2) (m1 * 2 ^ 60 / m2) (e1 - e2 - 60)
        (decide (m1 * 2 ^ 60 % m2 ≠ 0))

/-- a < b; false when either is a NaN. -/
def F32.lt : F32 → F32 → Bool
  | .nan, _ => false
  | _, .nan => false
  | .inf s, .inf t => s && !t
  | .inf s, .fin _ _ _ => s
  | .fin _ _ _, .inf t => !t
  | .fin s1 m1 e1, .fin s2 m2 e2 => decide ((exactSum s1 m1 e1 (!s2) m2 e2).1 < 0)

/-- a is a zero. -/
def F32.isZero : F32 → Bool
  | .fin _ m _ => m = 0
  | _ => false

/-- `f32_trunc_i32` of R11 for a finite number; 0 otherwise (45_orb_atan2 R238: "NaNs or out-of-range outputs must be
clamped to 0"). -/
def F32.truncInt : F32 → Int
  | .fin neg m e =>
    signedMant neg (if 0 ≤ e then m * 2 ^ e.toNat else m / 2 ^ (-e).toNat)
  | _ => 0

end Sys2Proof.Machine
end

