-- ==== Sys2Proof/Machine/Types.lean ====
section
/-! DEFINITION. The plain data types of the machine's state: error codes, the feature grid's storage, the parameter
registers, STATUS and the host's accesses. -/

namespace Sys2Proof

/-- One bucket of the grid: its entries 0 .. c − 1, weakest first; the count c is the length (10_state R47). -/
abbrev Bucket := List Word

/-- The feature grid in storage (10_state R47): the geometry (Wg, Hg, Bg, bg, Kg, HB, VB), and the buckets (i, j)
row by row, bucket (i, j) at position i·HB + j. -/
structure Grid where
  w : Nat
  h : Nat
  border : Nat
  logB : Nat
  k : Nat
  hb : Nat
  vb : Nat
  buckets : List Bucket
  deriving DecidableEq, Repr, Inhabited

namespace Machine

/-- The error codes of 60_exceptions R270 (codes 8 to 15 are never produced). -/
inductive ErrCode where
  | none
  | badOpcode
  | badParam
  | kpBounds
  | outFull
  | noGrid
  | badBin
  | bus
  deriving DecidableEq, Repr

/-- The parameter registers, offsets 0x010 to 0x068 of 10_state R21, in that order. -/
inductive ParamReg where
  | imgBase | marksBase | stride | width | height | border | fastT | harrisT
  | logBkt | bktK | inBase | inCount | outBase | outCap | outCount
  | qX | qY | qR | redMin | redMax | redStep | redTarget | descN
  deriving DecidableEq, Repr

/-- What the parameter registers hold (10_state R26 to R39, R44). -/
structure ParamRegs where
  imgBase : Word
  marksBase : Word
  stride : Word
  width : Word
  height : Word
  border : Word
  fastT : Word
  harrisT : Word
  logBkt : Word
  bktK : Word
  inBase : Word
  inCount : Word
  outBase : Word
  outCap : Word
  outCount : Word
  qX : Word
  qY : Word
  qR : Word
  redMin : Word
  redMax : Word
  redStep : Word
  redTarget : Word
  descN : Word
  deriving DecidableEq, Repr

/-- The fields of STATUS (10_state R23). -/
structure Status where
  busy : Bool
  done : Bool
  err : Bool
  wdrop : Bool
  errCode : ErrCode
  gridValid : Bool
  indexValid : Bool
  deriving DecidableEq, Repr

/-- The width of a host access to the register window (10_state R21). -/
inductive AccessWidth where
  | w8 | w16 | w32 | w64
  deriving DecidableEq, Repr

/-- One act of the host (00_scope R6, 30_encoding R95, 70_reset_and_hazards R300, R301). -/
inductive HostEvent where
  /-- a write of the low bits of `v` at a byte offset of the register window -/
  | regWrite (width : AccessWidth) (offset : BitVec 8) (v : Word)
  /-- a read at a byte offset of the register window -/
  | regRead (width : AccessWidth) (offset : BitVec 8)
  /-- `mem.b` -/
  | memWriteByte (addr : Word) (v : Byte)
  /-- `mem.w` -/
  | memWriteWord (addr : Word) (v : Word)
  /-- the host reads a byte of memory -/
  | memReadByte (addr : Word)
  /-- the host reads a little-endian word of memory -/
  | memReadWord (addr : Word)
  /-- the reset input is asserted while no command runs -/
  | resetAssert
  /-- the reset input is released -/
  | resetRelease
  /-- `v` is written to CMD and the reset input is asserted before that command ends (R301) -/
  | resetDuringCommand (v : Word)
  deriving DecidableEq, Repr

end Machine

end Sys2Proof
end

