-- ==== Sys2Proof/Config.lean ====
section
/-! DEFINITION. What an implementation fixes (spec 00_scope R7, 93_implementation_defined §2) and the free values.
`Params` is plain data that State carries and no step changes, so a statement over every state holds for every
admissible value of every parameter (assumption 2). An OPEN parameter has, at reset, a value that is an opaque
constant: nothing can be proved of it. -/

namespace Sys2Proof

/-- `FAST_CMP` (40_fast_detect R122). -/
inductive FastCmp where
  /-- ring < dark, ring > light -/
  | strict
  /-- ring ≤ dark, ring ≥ light -/
  | nonstrict
  deriving DecidableEq, Repr

/-- `SOBEL_GRAD` (41_harris_score R141): the default map, or another map, named by a number (assumption 14). -/
inductive SobelGrad where
  /-- floor of the Sobel sums divided by 8 -/
  | floorDiv8
  /-- any other map, `Config.sobelGradOther n` -/
  | other (n : Nat)
  deriving DecidableEq, Repr

/-- One entry of `ROT_PATTERN` (10_state R49): the offsets (a, b) and (c, d) of the two probes of a test. -/
structure Probe where
  a : Int
  b : Int
  c : Int
  d : Int
  deriving DecidableEq, Repr

/-- The implementation parameters of 00_scope R7 that the spec lets vary. -/
structure Params where
  /-- `MAX_K`, read through CFG_MAX_K -/
  maxK : Word
  /-- `MAX_BUCKETS`, read through CFG_MAX_BUCKETS -/
  maxBuckets : Word
  /-- `ADMIT`: the closed ranges [lo, hi] of the byte addresses the platform's memory answers -/
  admitRanges : List (Nat × Nat)
  /-- `FAST_CMP` -/
  fastCmp : FastCmp
  /-- `RING`: the 16 offsets (dx, dy) in cyclic order -/
  ring : List (Int × Int)
  /-- `HARRIS_WIN_LO` -/
  harrisWinLo : Int
  /-- `SOBEL_GRAD` -/
  sobelGrad : SobelGrad
  /-- `MINIFLOAT_BIAS` -/
  minifloatBias : Int
  /-- `DISK_UMAX`: the half-width of the disk for |dy| = 0 .. 15 -/
  diskUmax : List Nat
  /-- `ROT_PATTERN`, the pattern ROM: 30 rows of 256 tests -/
  rotPattern : List (List Probe)
  deriving DecidableEq, Repr

/-! ## Free values and OPEN parameters: no body, so nothing can be proved of their values -/

/-- The OPEN parameter `MAX_K` (R7), 0 standing for 1. -/
opaque Config.openMaxK : Word

/-- The OPEN parameter `MAX_BUCKETS` (R7), 0 standing for 1. -/
opaque Config.openMaxBuckets : Word

/-- The OPEN parameter `ADMIT` (R7), as ranges. -/
opaque Config.openAdmit : List (Nat × Nat)

/-- The OPEN parameter `BASE_PATTERN` (46_orb_describe R250): test k's pairs ((dx0, dy0), (dx1, dy1)). -/
opaque Config.basePattern : Nat → (Int × Int) × (Int × Int)

/-- A map of `SOBEL_GRAD` other than the default (R141): from the nine bytes of a 3×3 neighbourhood, row by row,
to the two signed gradient bytes (dx, dy). -/
opaque Config.sobelGradOther : Nat → List Byte → Byte × Byte

/-- Grid storage whose content the spec leaves unspecified (U3, U4; assumption 6), one for each use. -/
opaque Config.freeGrid : Nat → Grid

/-- Index-table content the spec leaves unspecified (U4; assumption 6), one for each use. -/
opaque Config.freeIndex : Nat → List Word

/-- Which of several refused reads of an unordered group is met first (40 R124, 46 R253; assumption 5): a function of the
parameter registers, the memory and the refused addresses, so that a command run again on the same registers and memory
reports the same error (60 R278, 70 R321). -/
opaque Config.freePick : Machine.ParamRegs → List (Nat × Byte) → List Int → Nat

/-- Whether the write to a byte had landed when reset aborted a command (70 R301, U7; assumption 7):
use number, byte address. -/
opaque Config.abortedWriteLanded : Nat → Nat → Bool

/-! ## Parameter values the spec states -/

/-- The 16 ring offsets of 40_fast_detect R121. -/
def Config.defaultRing : List (Int × Int) :=
  [(0, -3), (1, -3), (2, -2), (3, -1), (3, 0), (3, 1), (2, 2), (1, 3),
   (0, 3), (-1, 3), (-2, 2), (-3, 1), (-3, 0), (-3, -1), (-2, -2), (-1, -3)]

/-- The literal circle of 44_orb_centroid R220. -/
def Config.defaultDiskUmax : List Nat :=
  [15, 14, 14, 14, 14, 14, 13, 13, 12, 12, 11, 10, 9, 7, 5, 0]

/-- `ATAN2_C0` (45_orb_atan2 R236), the binary32 nearest 14.999998·256. -/
def Config.atan2C0 : Word := 0x456FFFFE

/-- `ATAN2_C1` (R236), the binary32 nearest 4.723436·256. -/
def Config.atan2C1 : Word := 0x44972663

/-- `ATAN2_C2` (R236), the binary32 nearest 1.266240·256. -/
def Config.atan2C2 : Word := 0x43A21427

/-- `MAX_DIM` (R7): the largest WIDTH and HEIGHT a raster command accepts. -/
def Config.maxDim : Nat := 4096

/-- `MAX_K` at reset: an unknown constant of at least 1 (R7). -/
def Config.maxK : Word := if Config.openMaxK = 0 then 1 else Config.openMaxK

/-- `MAX_BUCKETS` at reset: an unknown constant of at least 1 (R7). -/
def Config.maxBuckets : Word := if Config.openMaxBuckets = 0 then 1 else Config.openMaxBuckets

end Sys2Proof
end

