-- ==== Sys2Proof/Machine/Pattern.lean ====
section
/-! DEFINITION. The default pattern ROM: the exact rotation of the base pattern (spec 46_orb_describe R250 to R252).

The rotation is computed exactly, in integers. With A = √(10 + 2√5) and B = √(10 − 2√5), and 12°·r = 72°·r − 60°·r,
every 8·cos θ_r and 8·sin θ_r is an integer combination of 1, √5, √3·A, √3·B, A, B, √3 and √15, which are linearly
independent over the rationals. A coordinate is therefore rational exactly when its seven surd coefficients are 0,
and only then can it tie (assumption 16). -/

namespace Sys2Proof.Machine

/-- The digits of the integer square root, from bit `k − 1` down. -/
def isqrtLoop (n : Nat) : Nat → Nat → Nat
  | 0, r => r
  | k + 1, r => if (r + 2 ^ k) * (r + 2 ^ k) ≤ n then isqrtLoop n k (r + 2 ^ k) else isqrtLoop n k r

/-- The integer square root. -/
def isqrt (n : Nat) : Nat := isqrtLoop n (Nat.log2 n / 2 + 1) 0

/-- 4·cos 72°k = p + q·√5, as (p, q). -/
def fourCos72 (k : Nat) : Int × Int :=
  match k % 5 with
  | 0 => (4, 0)
  | 1 => (-1, 1)
  | 2 => (-1, -1)
  | 3 => (-1, -1)
  | _ => (-1, 1)

/-- 4·sin 72°k = u·A + v·B, as (u, v). -/
def fourSin72 (k : Nat) : Int × Int :=
  match k % 5 with
  | 0 => (0, 0)
  | 1 => (1, 0)
  | 2 => (0, 1)
  | 3 => (0, -1)
  | _ => (-1, 0)

/-- 2·cos 60°k. -/
def twoCos60 (k : Nat) : Int :=
  match k % 6 with
  | 0 => 2
  | 1 => 1
  | 2 => -1
  | 3 => -2
  | 4 => -1
  | _ => 1

/-- 2·sin 60°k = w·√3, as w. -/
def twoSin60 (k : Nat) : Int :=
  match k % 6 with
  | 0 => 0
  | 1 => 1
  | 2 => 1
  | 3 => 0
  | 4 => -1
  | _ => -1

/-- 8·cos θ_r over the basis 1, √5, √3·A, √3·B, A, B, √3, √15. -/
def eightCos (r : Nat) : List Int :=
  let c := fourCos72 r
  let s := fourSin72 r
  [c.1 * twoCos60 r, c.2 * twoCos60 r, s.1 * twoSin60 r, s.2 * twoSin60 r, 0, 0, 0, 0]

/-- 8·sin θ_r over the same basis. -/
def eightSin (r : Nat) : List Int :=
  let c := fourCos72 r
  let s := fourSin72 r
  [0, 0, 0, 0, s.1 * twoCos60 r, s.2 * twoCos60 r, -(c.1 * twoSin60 r), -(c.2 * twoSin60 r)]

/-- The basis √5, √3·A, √3·B, A, B, √3, √15, each scaled by 2^p and cut to an integer. -/
def surds (p : Nat) : List Int :=
  let root (n : Nat) : Nat := isqrt (n * 4 ^ p)
  let nested (a b : Nat) (minus : Bool) : Nat :=
    let t := b * root 5
    isqrt ((if minus then a * 2 ^ p - t else a * 2 ^ p + t) * 2 ^ p)
  [Int.ofNat (root 5), Int.ofNat (nested 30 6 false), Int.ofNat (nested 30 6 true),
   Int.ofNat (nested 10 2 false), Int.ofNat (nested 10 2 true), Int.ofNat (root 3), Int.ofNat (root 15)]

/-- The sum of the products of two lists, position by position. -/
def dot : List Int → List Int → Int
  | a :: as, b :: bs => a * b + dot as bs
  | _, _ => 0

/-- The rational n/8 rounded to the nearest integer, ties to even. -/
def roundEighth (n : Int) : Int :=
  let q := n / 8
  let r := n % 8
  if r < 4 then q else if 4 < r then q + 1 else if q % 2 = 0 then q else q + 1

/-- `rne` of R251 for one eighth of the number with the given coefficients: exact where it is rational; otherwise
floor(x + 1/2), at a precision of `p` bits that the size of the base offset makes sufficient (assumption 16). -/
def roundCoord (p : Nat) (coefs : List Int) : Int :=
  match coefs with
  | [] => 0
  | q :: rest =>
    if rest.all (fun c => c = 0) then roundEighth q
    else (q * 2 ^ p + dot rest (surds p) + 4 * 2 ^ p) / (8 * 2 ^ p)

/-- a·xs + b·ys, position by position. -/
def combine (a : Int) (xs : List Int) (b : Int) (ys : List Int) : List Int :=
  List.zipWith (fun x y => a * x + b * y) xs ys

/-- `rot(dx, dy, r)` of R251. -/
def rotOffset (dx dy : Int) (r : Nat) : Int × Int :=
  let p := 64 + 16 * (Nat.log2 (dx.natAbs + dy.natAbs) + 1)
  (clampInt (roundCoord p (combine dx (eightCos r) (-dy) (eightSin r))) (-15) 15,
   clampInt (roundCoord p (combine dx (eightSin r) dy (eightCos r))) (-15) 15)

/-- `ROT_PATTERN[r][k]` by the default of R251, for any base pattern. -/
def rotProbe (base : (Int × Int) × (Int × Int)) (r : Nat) : Probe :=
  let p := rotOffset base.1.1 base.1.2 r
  let q := rotOffset base.2.1 base.2.2 r
  ⟨p.1, p.2, q.1, q.2⟩

/-- The default pattern ROM of R251 for a base pattern: 30 rows of 256 tests. -/
def romOf (base : Nat → (Int × Int) × (Int × Int)) : List (List Probe) :=
  (List.range' 0 30).map fun r => (List.range' 0 256).map fun k => rotProbe (base k) r

/-- The implementation parameters at reset: the spec's value where it states one, an opaque constant where it says
OPEN (assumption 2). -/
def resetParams : Params where
  maxK := Config.maxK
  maxBuckets := Config.maxBuckets
  admitRanges := Config.openAdmit
  fastCmp := .strict
  ring := Config.defaultRing
  harrisWinLo := -3
  sobelGrad := .floorDiv8
  minifloatBias := 126
  diskUmax := Config.defaultDiskUmax
  rotPattern := romOf Config.basePattern

end Sys2Proof.Machine
end

