-- ==== Sys2Proof/Machine/State.lean ====
section
/-! DEFINITION. The machine's state, its reset, and the reasons a step can stop. -/

namespace Sys2Proof.Machine

/-- Memory (20_memory R60): the listed (address, byte) pairs, addresses rising; an unlisted address reads as
`Memory.unlisted` (Machine/Ops.lean). -/
abbrev Memory := List Host.Cell

/-- Everything the spec gives the machine (10_state R20), as plain data. -/
structure State where
  /-- the implementation parameters of 00_scope R7, the pattern ROM among them (R49); no step changes them -/
  params : Params
  /-- CMD, the last accepted value (R22) -/
  cmd : Word
  /-- STATUS (R23) -/
  status : Status
  /-- ERR_INFO (R24) -/
  errInfo : Word
  /-- RESULT (R25) -/
  result : Word
  /-- the parameter registers 0x010 to 0x068 (R26 to R39) -/
  regs : ParamRegs
  /-- GRID_DIM (R40) -/
  gridDim : Word
  /-- GRID_TOTAL (R41) -/
  gridTotal : Word
  /-- the grid storage (R47); meaningful while GRID_VALID = 1 -/
  grid : Grid
  /-- the index table (R48): start(i, j) at position i·HB + j; meaningful while INDEX_VALID = 1 -/
  index : List Word
  /-- memory (20_memory R60) -/
  mem : Memory
  /-- the reset input is asserted (70_reset_and_hazards R300) -/
  inReset : Bool
  /-- MODEL: the host's acts still to come, the next first (assumption 1) -/
  inputs : List HostEvent
  /-- MODEL: the value the host's last read returned (assumption 10) -/
  readData : Word
  /-- MODEL: how many free values have been used (assumption 11) -/
  freeCount : Nat
  deriving DecidableEq, Repr

/-- The ways a step stops with a fault. -/
inductive Fault where
  /-- Raised by a command whose write footprint meets its read footprint (20_memory R67, U5). Safe: the model says
  nothing of what such a command leaves. -/
  | footprintOverlap
  /-- Raised by a host word access that runs past the last byte of memory (20_memory R60). Safe. -/
  | hostAddressOutOfRange
  deriving DecidableEq, Repr

/-- The ways a step is refused. -/
inductive Refusal where
  /-- Raised by the arm of an instruction that has no meaning yet. Safe. -/
  | notModelled (mnemonic : String)
  /-- Raised by a host memory access while BUSY = 1 (20_memory R70, U6). Safe. No reachable state has BUSY = 1. -/
  | hostMemoryWhileBusy
  /-- Raised by a host read of OUT_COUNT, RESULT or GRID_TOTAL while BUSY = 1 (10_state R43, U9). Safe. -/
  | registerReadWhileBusy
  deriving DecidableEq, Repr

/-- Every parameter register at 0x00000000 (10_state R21). -/
def ParamRegs.zero : ParamRegs where
  imgBase := 0
  marksBase := 0
  stride := 0
  width := 0
  height := 0
  border := 0
  fastT := 0
  harrisT := 0
  logBkt := 0
  bktK := 0
  inBase := 0
  inCount := 0
  outBase := 0
  outCap := 0
  outCount := 0
  qX := 0
  qY := 0
  qR := 0
  redMin := 0
  redMax := 0
  redStep := 0
  redTarget := 0
  descN := 0

/-- STATUS = 0x00000000 (10_state R21). -/
def Status.zero : Status where
  busy := false
  done := false
  err := false
  wdrop := false
  errCode := .none
  gridValid := false
  indexValid := false

/-- The machine right after reset (70_reset_and_hazards R300, 10_state R51). The grid and index storage hold no value:
free values (assumption 6). -/
def State.reset : State where
  params := resetParams
  cmd := 0
  status := Status.zero
  errInfo := 0
  result := 0
  regs := ParamRegs.zero
  gridDim := 0
  gridTotal := 0
  grid := Config.freeGrid 0
  index := Config.freeIndex 0
  mem := []
  inReset := false
  inputs := []
  readData := 0
  freeCount := 1

end Sys2Proof.Machine
end

