-- ==== Sys2Proof/Machine/Flags.lean ====
section
/-! DEFINITION. STATUS and the error codes as software sees them (spec 10_state R23, 60_exceptions R270). -/

namespace Sys2Proof.Machine

/-- The number of an error code (60_exceptions R270). -/
def ErrCode.code : ErrCode → BitVec 4
  | .none => 0
  | .badOpcode => 1
  | .badParam => 2
  | .kpBounds => 3
  | .outFull => 4
  | .noGrid => 5
  | .badBin => 6
  | .bus => 7

/-- STATUS as a host read returns it (10_state R23). -/
def Status.word (s : Status) : Word :=
  (0 : BitVec 14) ++ BitVec.ofBool s.indexValid ++ BitVec.ofBool s.gridValid ++ (0 : BitVec 4) ++
    ErrCode.code s.errCode ++ (0 : BitVec 4) ++ BitVec.ofBool s.wdrop ++ BitVec.ofBool s.err ++
    BitVec.ofBool s.done ++ BitVec.ofBool s.busy

/-- A host write of `v` to STATUS (10_state R23): DONE, ERR and WDROP are cleared where `v` has a 1, and clearing ERR
clears ERRCODE. -/
def Status.writeOneToClear (s : Status) (v : Word) : Status :=
  { s with
    done := s.done && !v.getLsbD 1
    err := s.err && !v.getLsbD 2
    wdrop := s.wdrop && !v.getLsbD 3
    errCode := if v.getLsbD 2 then .none else s.errCode }

/-- STATUS when a command is accepted (10_state R22). -/
def Status.accepted (s : Status) : Status := { s with done := false, busy := true }

/-- STATUS when a command ends without an error. -/
def Status.ended (s : Status) : Status := { s with busy := false, done := true }

/-- STATUS when a command raises an error (60_exceptions R272, step 4). -/
def Status.raised (s : Status) (e : ErrCode) : Status :=
  { s with errCode := e, err := true, busy := false, done := true }

/-- STATUS when a register write or a command request is dropped (10_state R22, R43). -/
def Status.dropped (s : Status) : Status := { s with wdrop := true }

/-- GRID_DIM for a grid of `hb` columns and `vb` rows of buckets (10_state R40, 43_feature_grid R192). -/
def gridDimWord (hb vb : Nat) : Word := BitVec.ofNat 32 (vb * 65536 + hb)

/-- The number of entries in a list of buckets. -/
def entryCount : List Bucket → Nat
  | [] => 0
  | b :: bs => b.length + entryCount bs

end Sys2Proof.Machine
end

