-- ==== Sys2Proof/Machine/Run.lean ====
section
/-! DEFINITION. The types of a command in progress: its transient state (spec 10_state R50) and its two ways to end
(60_exceptions R272). -/

namespace Sys2Proof.Machine

/-- Consecutive byte addresses: the first, and how many. -/
abbrev Span := Nat × Nat

/-- A command in progress. Nothing but `st` survives it (10_state R50). -/
structure Run where
  /-- the machine's state, as changed so far -/
  st : State
  /-- the read footprint that the command's rule states (00_scope glossary, 20_memory R67), as declared so far -/
  reads : List Span
  /-- the write footprint that the command's rule states, as declared so far -/
  writes : List Span
  /-- the buckets being filled: the stripe of EXTRACT_BKT, or the grid GRID_BUCKET builds -/
  buckets : List Bucket

/-- How a part of a command ends: with a value, or with an error that ends the command. Both keep what was done. -/
inductive CmdResult (α : Type) where
  | ok (a : α) (c : Run)
  | err (e : ErrCode) (info : Word) (c : Run)

/-- A part of a command. -/
abbrev Cmd (α : Type) := Run → CmdResult α

end Sys2Proof.Machine
end

