-- ==== Sys2Proof/Machine/Ops.lean ====
section
/-! DEFINITION. The shared operations: memory, the sequencing of a command, its stated footprints, memory accesses with
admission, appending, and the acceptance of a command, its end, and raising an error. -/

namespace Sys2Proof.Machine

/-! ## Memory (spec 20_memory R60, R62) -/

/-- What a byte of memory that is not listed reads as (assumption 3). -/
def Memory.unlisted : Byte := 0

/-- The byte at an address. -/
def Memory.read : Memory → Nat → Byte
  | [], _ => Memory.unlisted
  | (b, v) :: m, a => if a = b then v else Memory.read m a

/-- The memory with no entry for an address. -/
def Memory.remove : Memory → Nat → Memory
  | [], _ => []
  | (b, v) :: m, a => if a = b then Memory.remove m a else (b, v) :: Memory.remove m a

/-- The memory with one entry more, before the first entry of a larger address. -/
def Memory.insert : Memory → Nat → Byte → Memory
  | [], a, v => [(a, v)]
  | (b, w) :: m, a, v => if a < b then (a, v) :: (b, w) :: m else (b, w) :: Memory.insert m a v

/-- The memory after a byte is written: its canonical form kept, so that equal memories are equal data. -/
def Memory.write (m : Memory) (a : Nat) (v : Byte) : Memory :=
  if v = Memory.unlisted then Memory.remove m a else Memory.insert (Memory.remove m a) a v

/-- Bytes written at consecutive addresses. -/
def Memory.writeBytes (m : Memory) (a : Nat) : List Byte → Memory
  | [] => m
  | v :: vs => Memory.writeBytes (Memory.write m a v) (a + 1) vs

/-- The bytes at consecutive addresses. -/
def Memory.readBytes (m : Memory) (a : Nat) : Nat → List Byte
  | 0 => []
  | n + 1 => Memory.read m a :: Memory.readBytes m (a + 1) n

/-- Every listed address is above `lo` (or `lo` is none), they rise strictly, each is below 2^32, and no listed byte
is what an unlisted address reads as. -/
def Memory.wfFrom : Option Nat → Memory → Bool
  | _, [] => true
  | lo, (a, v) :: m =>
    (match lo with
      | none => true
      | some l => decide (l < a)) && decide (a < 4294967296) && decide (v ≠ Memory.unlisted) && Memory.wfFrom (some a) m

/-- The canonical form. -/
def Memory.wf (m : Memory) : Bool := Memory.wfFrom none m

/-- Little-endian bytes of a word, lowest first (20_memory R62). -/
def wordBytes (w : Word) : List Byte :=
  [w.extractLsb' 0 8, w.extractLsb' 8 8, w.extractLsb' 16 8, w.extractLsb' 24 8]

/-- The word of four little-endian bytes. -/
def wordOfBytes : List Byte → Word
  | [b0, b1, b2, b3] => b3 ++ b2 ++ b1 ++ b0
  | _ => 0

/-! ## Sequencing -/

/-- A part that does nothing and gives a value. -/
def Cmd.pure {α : Type} (a : α) : Cmd α := fun c => .ok a c

/-- One part and then another; an error ends both. -/
def Cmd.bind {α β : Type} (x : Cmd α) (f : α → Cmd β) : Cmd β := fun c =>
  match x c with
  | .ok a c' => f a c'
  | .err e i c' => .err e i c'

/-- `raise E(info)` (60_exceptions R272): the command ends here. -/
def Cmd.raise {α : Type} (e : ErrCode) (info : Word) : Cmd α := fun c => .err e info c

/-- `for v in lo .. lo + n − 1` (00_scope R13). -/
def Cmd.forRange : Nat → Nat → (Nat → Cmd Unit) → Cmd Unit
  | _, 0, _ => Cmd.pure ()
  | lo, n + 1, f => Cmd.bind (f lo) fun _ => Cmd.forRange (lo + 1) n f

/-- The same loop, collecting a value at each turn. -/
def Cmd.mapRange {α : Type} : Nat → Nat → (Nat → Cmd α) → Cmd (List α)
  | _, 0, _ => Cmd.pure []
  | lo, n + 1, f =>
    Cmd.bind (f lo) fun a => Cmd.bind (Cmd.mapRange (lo + 1) n f) fun as => Cmd.pure (a :: as)

/-- One part for each element of a list, in order. -/
def Cmd.forList {α : Type} : List α → (α → Cmd Unit) → Cmd Unit
  | [], _ => Cmd.pure ()
  | a :: as, f => Cmd.bind (f a) fun _ => Cmd.forList as f

/-- A change of the machine's state. -/
def Cmd.modify (f : State → State) : Cmd Unit := fun c => .ok () { c with st := f c.st }

/-- A value computed from the machine's state. -/
def Cmd.get {α : Type} (f : State → α) : Cmd α := fun c => .ok (f c.st) c

/-- The buckets being filled. -/
def Cmd.getBuckets : Cmd (List Bucket) := fun c => .ok c.buckets c

/-- A change of the buckets being filled. -/
def Cmd.modifyBuckets (f : List Bucket → List Bucket) : Cmd Unit := fun c =>
  .ok () { c with buckets := f c.buckets }

/-! ## Footprints (spec 20_memory R67; assumption 4) -/

/-- The footprints that the command's rule states, entered once its checks have passed. -/
def declareFootprint (reads writes : List Span) : Cmd Unit := fun c =>
  .ok () { c with reads := reads ++ c.reads, writes := writes ++ c.writes }

/-- Single bytes as spans; a negative number is no address. -/
def byteSpans (as : List Int) : List Span := (as.filter fun a => decide (0 ≤ a)).map fun a => (a.toNat, 1)

/-- Whether two spans share an address. -/
def spansMeet (u v : Span) : Bool := decide (max u.1 v.1 < min (u.1 + u.2) (v.1 + v.2))

/-- Whether a write footprint overlaps a read footprint (R67). -/
def footprintsMeet (reads writes : List Span) : Bool := writes.any fun w => reads.any fun r => spansMeet r w

/-! ## Memory accesses of the block -/

/-- Whether an address lies in one of the ranges. -/
def inRanges : List (Nat × Nat) → Nat → Bool
  | [], _ => false
  | (lo, hi) :: rs, a => (decide (lo ≤ a) && decide (a ≤ hi)) || inRanges rs a

/-- `ADMIT` (20_memory R65): an address ≥ 2^32 is never admitted. -/
def admitted (p : Params) (a : Int) : Bool :=
  decide (0 ≤ a) && decide (a < 4294967296) && inRanges p.admitRanges a.toNat

/-- The lowest refused one of `n` consecutive byte addresses. -/
def firstRefused (p : Params) (a : Int) : Nat → Option Int
  | 0 => none
  | n + 1 => if admitted p a then firstRefused p (a + 1) n else some a

/-- The detail word of BUS: a refused address mod 2^32 (R65). -/
def busInfo (a : Int) : Word := BitVec.ofInt 32 a

/-- The admission check of one access of `n` bytes (R65). -/
def admitAccess (n : Nat) (a : Int) : Cmd Unit := fun c =>
  match firstRefused c.st.params a n with
  | none => .ok () c
  | some r => .err .bus (busInfo r) c

/-- The bytes of an access of `n` bytes (00_scope R12 `MemRead`). -/
def readBytes (n : Nat) (a : Int) : Cmd (List Byte) :=
  Cmd.bind (admitAccess n a) fun _ => Cmd.get fun s => Memory.readBytes s.mem a.toNat n

/-- `MemRead(a, 4)`, little-endian (R12, 20_memory R62). -/
def memReadWord (a : Int) : Cmd Word :=
  Cmd.bind (readBytes 4 a) fun bs => Cmd.pure (wordOfBytes bs)

/-- `MemRead(a, 1)` (R12). -/
def memReadByte (a : Int) : Cmd Byte :=
  Cmd.bind (readBytes 1 a) fun bs => Cmd.pure (bs.headD 0)

/-- `MemWrite` of the given bytes (R12). -/
def memWrite (a : Int) (bs : List Byte) : Cmd Unit :=
  Cmd.bind (admitAccess bs.length a) fun _ =>
    Cmd.modify fun s => { s with mem := Memory.writeBytes s.mem a.toNat bs }

/-- The addresses that the platform refuses. -/
def refusedOf (p : Params) : List Int → List Int
  | [] => []
  | a :: as => if admitted p a then refusedOf p as else a :: refusedOf p as

/-- Byte reads of one step whose order the spec leaves open (40_fast_detect R124, 46_orb_describe R253; assumption 5):
their values; or BUS at one of the refused addresses, a free choice where two are refused. -/
def readUnordered (as : List Int) : Cmd (List Byte) := fun c =>
  match refusedOf c.st.params as with
  | [] => .ok (as.map fun a => Memory.read c.st.mem a.toNat) c
  | r :: rs =>
    if rs.all (fun x => decide (x = r)) then .err .bus (busInfo r) c
    else
      .err .bus (busInfo ((r :: rs).getD (Config.freePick c.st.regs c.st.mem (r :: rs) % (rs.length + 1)) r)) c

/-! ## Appending (20_memory R68) -/

/-- One more element in the caller's array: OUT_COUNT and RESULT step by one. -/
def State.countElement (s : State) : State :=
  { s with regs := { s.regs with outCount := s.regs.outCount + 1 }, result := s.result + 1 }

/-- The address of element OUT_COUNT, for elements of `n` bytes. -/
def appendAddr (r : ParamRegs) (n : Nat) : Int :=
  ((r.outBase.toNat + n * r.outCount.toNat : Nat) : Int)

/-- `Append(esize, v)`, the element given as its bytes (R68). -/
def append (bs : List Byte) : Cmd Unit :=
  Cmd.bind (Cmd.get State.regs) fun r =>
    if r.outCount = r.outCap then Cmd.raise .outFull r.outCount
    else
      Cmd.bind (memWrite (appendAddr r bs.length) bs) fun _ => Cmd.modify State.countElement

/-- `Append(4, v)`. -/
def appendWord (v : Word) : Cmd Unit := append (wordBytes v)

/-- `Append(1, v)`. -/
def appendByte (v : Byte) : Cmd Unit := append [v]

/-! ## Acceptance, end, and raising an error: the block's trap entry and the return from it -/

/-- Acceptance of a command request (10_state R22). -/
def State.accept (s : State) (v : Word) : State :=
  { s with cmd := v, status := s.status.accepted, result := 0, errInfo := 0 }

/-- A dropped register write or command request (10_state R22, R43). -/
def State.drop (s : State) : State := { s with status := s.status.dropped }

/-- The end of a command without an error. -/
def State.finish (s : State) : State := { s with status := s.status.ended }

/-- `raise E(info)` (60_exceptions R272, step 4): the block's trap entry. The host is the handler; it returns by a
write to STATUS (R279, `Status.writeOneToClear`). -/
def State.raise (s : State) (e : ErrCode) (info : Word) : State :=
  { s with status := s.status.raised e, errInfo := info }

/-- GRID_TOTAL set to the grid's count, 0 without a valid grid (10_state R41; 60_exceptions R272, step 5). -/
def State.refreshTotal (s : State) : State :=
  { s with gridTotal :=
      if s.status.gridValid then BitVec.ofNat 32 (entryCount s.grid.buckets) else 0 }

/-- A command about to begin. -/
def State.begin (s : State) : Run := ⟨s, [], [], []⟩

/-- A whole command: its body, then its end or its error, `last` being what the command does to the registers in
either case; a fault where the footprints its rule states overlap, however it ends (20_memory R67, U5; assumption 4). -/
def runCommand (last : State → State) (body : Cmd Unit) (s : State) : Host.Outcome State Fault Refusal :=
  match body s.begin with
  | .ok _ c =>
    if footprintsMeet c.reads c.writes then .fault .footprintOverlap else .next (State.finish (last c.st))
  | .err e info c =>
    if footprintsMeet c.reads c.writes then .fault .footprintOverlap else .next (State.raise (last c.st) e info)

end Sys2Proof.Machine
end

