-- ==== Sys2Proof/Machine/Operands.lean ====
section
/-! DEFINITION. The operands of a command: parameter registers (spec 10_state R21, R26 to R39, R44; 30_encoding R83),
raster and array addresses (20_memory R63, R64), and the parameter checks at the start of a command
(60_exceptions R273). -/

namespace Sys2Proof.Machine

/-- The offset of a parameter register (10_state R21). -/
def ParamReg.offset : ParamReg → BitVec 8
  | .imgBase => 0x10
  | .marksBase => 0x14
  | .stride => 0x18
  | .width => 0x1C
  | .height => 0x20
  | .border => 0x24
  | .fastT => 0x28
  | .harrisT => 0x2C
  | .logBkt => 0x30
  | .bktK => 0x34
  | .inBase => 0x38
  | .inCount => 0x3C
  | .outBase => 0x40
  | .outCap => 0x44
  | .outCount => 0x48
  | .qX => 0x4C
  | .qY => 0x50
  | .qR => 0x54
  | .redMin => 0x58
  | .redMax => 0x5C
  | .redStep => 0x60
  | .redTarget => 0x64
  | .descN => 0x68

/-- Every parameter register, by rising offset. -/
def ParamReg.all : List ParamReg :=
  [.imgBase, .marksBase, .stride, .width, .height, .border, .fastT, .harrisT, .logBkt, .bktK, .inBase, .inCount, .outBase, .outCap, .outCount, .qX, .qY, .qR, .redMin, .redMax, .redStep, .redTarget, .descN]

/-- The value a parameter register holds. -/
def ParamRegs.get (r : ParamRegs) : ParamReg → Word
  | .imgBase => r.imgBase
  | .marksBase => r.marksBase
  | .stride => r.stride
  | .width => r.width
  | .height => r.height
  | .border => r.border
  | .fastT => r.fastT
  | .harrisT => r.harrisT
  | .logBkt => r.logBkt
  | .bktK => r.bktK
  | .inBase => r.inBase
  | .inCount => r.inCount
  | .outBase => r.outBase
  | .outCap => r.outCap
  | .outCount => r.outCount
  | .qX => r.qX
  | .qY => r.qY
  | .qR => r.qR
  | .redMin => r.redMin
  | .redMax => r.redMax
  | .redStep => r.redStep
  | .redTarget => r.redTarget
  | .descN => r.descN

/-- A parameter register stores all 32 bits (10_state R44). -/
def ParamRegs.set (r : ParamRegs) (p : ParamReg) (v : Word) : ParamRegs :=
  match p with
  | .imgBase => { r with imgBase := v }
  | .marksBase => { r with marksBase := v }
  | .stride => { r with stride := v }
  | .width => { r with width := v }
  | .height => { r with height := v }
  | .border => { r with border := v }
  | .fastT => { r with fastT := v }
  | .harrisT => { r with harrisT := v }
  | .logBkt => { r with logBkt := v }
  | .bktK => { r with bktK := v }
  | .inBase => { r with inBase := v }
  | .inCount => { r with inCount := v }
  | .outBase => { r with outBase := v }
  | .outCap => { r with outCap := v }
  | .outCount => { r with outCount := v }
  | .qX => { r with qX := v }
  | .qY => { r with qY := v }
  | .qR => { r with qR := v }
  | .redMin => { r with redMin := v }
  | .redMax => { r with redMax := v }
  | .redStep => { r with redStep := v }
  | .redTarget => { r with redTarget := v }
  | .descN => { r with descN := v }

/-! ## Addresses -/

/-- The address of cell (x, y) of a raster (20_memory R63): exact, no wrap. -/
def cellAddr (base stride : Word) (x y : Int) : Int :=
  (base.toNat : Int) + y * (stride.toNat : Int) + x

/-- The address of image pixel (x, y). -/
def pixAddr (r : ParamRegs) (x y : Int) : Int := cellAddr r.imgBase r.stride x y

/-- The address of mark (x, y). -/
def markAddr (r : ParamRegs) (x y : Int) : Int := cellAddr r.marksBase r.stride x y

/-- The address of element e of the word array at IN_BASE (20_memory R64). -/
def inAddr (r : ParamRegs) (e : Nat) : Int := ((r.inBase.toNat + 4 * e : Nat) : Int)

/-- How many x (or y) the bounded region B ≤ v < extent − B holds (10_state R30). -/
def innerExtent (extent border : Word) : Nat := extent.toNat - 2 * border.toNat

/-- The cells of the bounded region, row by row (10_state R30). -/
def regionCells (r : ParamRegs) : List (Nat × Nat) :=
  (List.range' r.border.toNat (innerExtent r.height r.border)).flatMap fun y =>
    (List.range' r.border.toNat (innerExtent r.width r.border)).map fun x => (x, y)

/-- The write footprint of a command that would append `n` elements of `esize` bytes: elements OUT_COUNT to
OUT_COUNT + n − 1 of the output array (42_nms_extract R166, R173, 44_orb_centroid R224, 45_orb_atan2 R239,
46_orb_describe R256), whether or not OUT_CAP has room for them. -/
def outSpan (r : ParamRegs) (esize n : Nat) : Span := ((appendAddr r esize).toNat, esize * n)

/-! ## Parameter checks -/

/-- One parameter check: BAD_PARAM with the offset of the register (60_exceptions R273). -/
def check (bad : Bool) (reg : ParamReg) : Cmd Unit :=
  if bad then Cmd.raise .badParam (reg.offset.setWidth 32) else Cmd.pure ()

/-- WIDTH > 4096, HEIGHT > 4096, STRIDE < WIDTH, in that order (10_state R28, R29). -/
def checkRaster (r : ParamRegs) : Cmd Unit :=
  Cmd.bind (check (decide (Config.maxDim < r.width.toNat)) .width) fun _ =>
  Cmd.bind (check (decide (Config.maxDim < r.height.toNat)) .height) fun _ =>
  check (decide (r.stride.toNat < r.width.toNat)) .stride

/-- BORDER below the command's minimum (10_state R30). -/
def checkBorder (r : ParamRegs) (least : Nat) : Cmd Unit :=
  check (decide (r.border.toNat < least)) .border

/-- LOG_BKT outside 1 .. 12, then BKT_K outside 1 .. MAX_K (10_state R33, R34). -/
def checkBuckets (p : Params) (r : ParamRegs) : Cmd Unit :=
  Cmd.bind (check (decide (r.logBkt.toNat < 1) || decide (12 < r.logBkt.toNat)) .logBkt) fun _ =>
  check (decide (r.bktK.toNat < 1) || decide (p.maxK.toNat < r.bktK.toNat)) .bktK

/-- IN_BASE of a word array not 4-aligned (10_state R35). -/
def checkInBase (r : ParamRegs) : Cmd Unit := check (decide (r.inBase.toNat % 4 ≠ 0)) .inBase

/-- OUT_BASE of a word array not 4-aligned (10_state R36). -/
def checkOutBase (r : ParamRegs) : Cmd Unit := check (decide (r.outBase.toNat % 4 ≠ 0)) .outBase

/-- OUT_COUNT > OUT_CAP (10_state R36). -/
def checkOutCount (r : ParamRegs) : Cmd Unit :=
  check (decide (r.outCap.toNat < r.outCount.toNat)) .outCount

/-- The two checks of a word output array, in that order. -/
def checkWordOutput (r : ParamRegs) : Cmd Unit :=
  Cmd.bind (checkOutBase r) fun _ => checkOutCount r

/-- The margin a keypoint needs for its 31×31 probes (44_orb_centroid R223, 46_orb_describe R255). -/
def inMargin (r : ParamRegs) (x y : Nat) : Bool :=
  decide (15 ≤ x) && decide (x + 16 ≤ r.width.toNat) && decide (15 ≤ y) && decide (y + 16 ≤ r.height.toNat)

end Sys2Proof.Machine
end

