-- ==== Sys2Proof/Machine/Atan2.lean ====
section
/-! DEFINITION. ATAN2: the angle quantiser (spec 45_orb_atan2 R235 to R242). -/

namespace Sys2Proof.Machine

/-- 1.0 in binary32. -/
def F32.one : F32 := F32.ofInt 1

/-- a(z) of R236, in the order of operations given there. -/
def atanPoly (z : F32) : F32 :=
  let t1 := F32.mul (F32.ofBits Config.atan2C2) z
  let t2 := F32.add (F32.ofBits Config.atan2C1) t1
  let t3 := F32.sub z F32.one
  let t4 := F32.mul t3 t2
  let t5 := F32.sub (F32.ofBits Config.atan2C0) t4
  F32.mul z t5

/-- The quadrant offset of R238. -/
def quadrantAngle (mx my t : Int) : Int :=
  if 0 ≤ mx then (if 0 ≤ my then t else 30720 - t)
  else (if 0 ≤ my then 15360 - t else 15360 + t)

/-- θ of R238 for a pair that is not (0, 0), in units of 1/256 of 3° (R235). -/
def angleOf (mx my : Int) : Int :=
  let ax := F32.ofInt mx.natAbs
  let ay := F32.ofInt my.natAbs
  let swapped := F32.lt ax ay
  let z := if swapped then F32.div ax ay else F32.div ay ax
  let ai := F32.truncInt (atanPoly z)
  quadrantAngle mx my (if swapped then 7680 - ai else ai)

/-- `bin(mx, my)` of R238. -/
def angleBin (mx my : Int) : Byte :=
  if (F32.ofInt mx.natAbs).isZero && (F32.ofInt my.natAbs).isZero then 0
  else
    let b := angleOf mx my / 1024
    if b < 30 then BitVec.ofInt 8 b else 0

/-- The word position of mx of pair k in a moment array (30_encoding R91). -/
def momentIndex (k : Nat) : Nat := 8 * (k / 4) + k % 4

/-- One pair (R237). -/
def atan2Pair (r : ParamRegs) (k : Nat) : Cmd Unit :=
  Cmd.bind (memReadWord (inAddr r (momentIndex k))) fun mx =>
  Cmd.bind (memReadWord (inAddr r (momentIndex k + 4))) fun my =>
  appendByte (angleBin mx.toInt my.toInt)

/-- The checks of R241. -/
def atan2Checks (r : ParamRegs) : Cmd Unit :=
  Cmd.bind (checkInBase r) fun _ => checkOutCount r

/-- The words ATAN2 reads (R239): the whole groups, and the two runs of a last group of fewer than four pairs. -/
def atan2ReadSpans (r : ParamRegs) : List Span :=
  [(r.inBase.toNat, 32 * (r.inCount.toNat / 4)),
   (r.inBase.toNat + 32 * (r.inCount.toNat / 4), 4 * (r.inCount.toNat % 4)),
   (r.inBase.toNat + 32 * (r.inCount.toNat / 4) + 16, 4 * (r.inCount.toNat % 4))]

/-- ATAN2 (R237), its footprints those of R239. -/
def atan2Body (r : ParamRegs) : Cmd Unit :=
  Cmd.bind (atan2Checks r) fun _ =>
  Cmd.bind (declareFootprint (atan2ReadSpans r) [outSpan r 1 r.inCount.toNat]) fun _ =>
  Cmd.forRange 0 r.inCount.toNat (atan2Pair r)

/-- The meaning of ATAN2. -/
def execAtan2 (s : State) : Host.Outcome State Fault Refusal :=
  runCommand id (atan2Body s.regs) s

end Sys2Proof.Machine
end

