-- ==== Sys2Proof/Machine/Keypoint.lean ====
section
/-! DEFINITION. The keypoint word and the host-side keypoint helpers (spec 30_encoding R84 to R90). -/

namespace Sys2Proof.Machine

/-- The y field, bits [11:0] (R84). -/
def kpY (kp : Word) : BitVec 12 := kp.extractLsb' 0 12

/-- The x field, bits [23:12] (R84). -/
def kpX (kp : Word) : BitVec 12 := kp.extractLsb' 12 12

/-- The score, bits [31:24] of the score form (R84). -/
def kpScore (kp : Word) : Byte := kp.extractLsb' 24 8

/-- The orientation bin, bits [28:24] of the overlay form (R84). -/
def kpOrient (kp : Word) : BitVec 5 := kp.extractLsb' 24 5

/-- The octave, bits [31:29] of the overlay form (R84). -/
def kpOctave (kp : Word) : BitVec 3 := kp.extractLsb' 29 3

/-- `pack` of R85. -/
def pack (score : Byte) (x y : BitVec 12) : Word := score ++ x ++ y

/-- `unpack` of R86: (score, x, y). -/
def unpack (kp : Word) : Byte × BitVec 12 × BitVec 12 := (kpScore kp, kpX kp, kpY kp)

/-- `rescore` of R87. -/
def rescore (kp : Word) (s : Byte) : Word := (kp &&& 0x00FFFFFF) ||| (s.setWidth 32 <<< 24)

/-- `overlay` of R88. -/
def overlay (kp : Word) (octave : BitVec 3) (orient : BitVec 5) : Word :=
  (kp &&& 0x00FFFFFF) ||| (octave.setWidth 32 <<< 29) ||| (orient.setWidth 32 <<< 24)

/-- One coordinate times a Q16.16 factor, rounded toward zero and reduced mod 4096 (R89). -/
def scaleCoord (v : BitVec 12) (f : Word) : BitVec 12 :=
  BitVec.ofNat 12 ((v.toNat * f.toNat / 65536) % 4096)

/-- `scale` of R89. -/
def scale (kp : Word) (f : Word) : Word := pack (kpScore kp) (scaleCoord (kpX kp) f) (scaleCoord (kpY kp) f)

/-- The order of keypoints: whole words as unsigned numbers (R90). -/
def weaker (a b : Word) : Bool := decide (a.toNat < b.toNat)

end Sys2Proof.Machine
end

