-- ==== Sys2Proof/Machine/Centroid.lean ====
section
/-! DEFINITION. CENTROID: the intensity-centroid accumulator (spec 44_orb_centroid R220 to R227). -/

namespace Sys2Proof.Machine

/-- Row dy of the disk, |dy| = `a`: its offsets from dx = −U[a] to U[a] (R220). -/
def diskRow (umax : List Nat) (dy : Int) (a : Nat) : List (Int × Int) :=
  (List.range' 0 (2 * umax.getD a 0 + 1)).map fun (i : Nat) => ((i : Int) - (umax.getD a 0 : Int), dy)

/-- The disk D (R220), row by row from dy = −15. -/
def diskOffsets (umax : List Nat) : List (Int × Int) :=
  (List.range' 0 31).flatMap fun (j : Nat) => diskRow umax ((j : Int) - 15) ((j : Int) - 15).natAbs

/-- The addresses of the pixels of the disk of (x, y). -/
def diskAddrs (p : Params) (r : ParamRegs) (x y : Nat) : List Int :=
  (diskOffsets p.diskUmax).map fun d => pixAddr r (x + d.1) (y + d.2)

/-- Σ weight · pixel (R221). -/
def moment (weight : Int × Int → Int) : List (Int × Int) → List Byte → Int
  | d :: ds, v :: vs => weight d * (v.toNat : Int) + moment weight ds vs
  | _, _ => 0

/-- The moments (mx, my) of R221 from the disk's pixels, as the words stored (R227). -/
def momentsOf (p : Params) (pixels : List Byte) : Word × Word :=
  (BitVec.ofInt 32 (moment Prod.fst (diskOffsets p.diskUmax) pixels),
   BitVec.ofInt 32 (moment Prod.snd (diskOffsets p.diskUmax) pixels))

/-- Keypoint k of the input: its word, its margin checked (R222, R223). -/
def boundedKeypoint (r : ParamRegs) (k : Nat) : Cmd Word :=
  Cmd.bind (memReadWord (inAddr r k)) fun kp =>
    if inMargin r (kpX kp).toNat (kpY kp).toNat then Cmd.pure kp
    else Cmd.raise .kpBounds (BitVec.ofNat 32 k)

/-- One lane of a group: the moments of keypoint k, or the zeros of a padding lane (R222). The disk of a keypoint that is
processed is in the read footprint (R224). -/
def centroidLane (p : Params) (r : ParamRegs) (k : Nat) : Cmd (Word × Word) :=
  if k < r.inCount.toNat then
    Cmd.bind (boundedKeypoint r k) fun kp =>
    Cmd.bind (declareFootprint (byteSpans (diskAddrs p r (kpX kp).toNat (kpY kp).toNat)) []) fun _ =>
    Cmd.bind (readUnordered (diskAddrs p r (kpX kp).toNat (kpY kp).toNat)) fun pixels =>
    Cmd.pure (momentsOf p pixels)
  else Cmd.pure (0, 0)

/-- One group of four keypoints: all four lanes are computed before its eight words are appended (R222). -/
def centroidGroup (p : Params) (r : ParamRegs) (g : Nat) : Cmd Unit :=
  Cmd.bind (Cmd.mapRange (4 * g) 4 (centroidLane p r)) fun lanes =>
  Cmd.bind (Cmd.forList (lanes.map Prod.fst) appendWord) fun _ =>
  Cmd.forList (lanes.map Prod.snd) appendWord

/-- The checks of R226. -/
def centroidChecks (r : ParamRegs) : Cmd Unit :=
  Cmd.bind (checkRaster r) fun _ =>
  Cmd.bind (checkInBase r) fun _ => checkWordOutput r

/-- CENTROID (R222), its footprints those of R224. -/
def centroidBody (p : Params) (r : ParamRegs) : Cmd Unit :=
  Cmd.bind (centroidChecks r) fun _ =>
  Cmd.bind (declareFootprint [(r.inBase.toNat, 4 * r.inCount.toNat)]
    [outSpan r 4 (8 * ((r.inCount.toNat + 3) / 4))]) fun _ =>
  Cmd.forRange 0 ((r.inCount.toNat + 3) / 4) (centroidGroup p r)

/-- The meaning of CENTROID. -/
def execCentroid (s : State) : Host.Outcome State Fault Refusal :=
  runCommand id (centroidBody s.params s.regs) s

end Sys2Proof.Machine
end

