-- ==== Sys2Proof/Machine/Describe.lean ====
section
/-! DEFINITION. DESCRIBE: the rotated-BRIEF describer (spec 46_orb_describe R250 to R259). -/

namespace Sys2Proof.Machine

/-- `ROT_PATTERN[r][k]` (10_state R49, R251). -/
def probeAt (p : Params) (bin k : Nat) : Probe := (p.rotPattern.getD bin []).getD k ⟨0, 0, 0, 0⟩

/-- The addresses of the two pixels that a test compares (R253). -/
def testAddrs (p : Params) (r : ParamRegs) (bin x y k : Nat) : List Int :=
  [pixAddr r (x + (probeAt p bin k).a) (y + (probeAt p bin k).b),
   pixAddr r (x + (probeAt p bin k).c) (y + (probeAt p bin k).d)]

/-- Whether the first of the two pixels is below the second. -/
def testHolds (pixels : List Byte) : Bool := decide ((pixels.getD 0 0).toNat < (pixels.getD 1 0).toNat)

/-- One test of R253. The spec does not say which of the two pixels is read first: where both are refused, the address
BUS reports is a free choice (assumption 5). -/
def briefTest (p : Params) (r : ParamRegs) (bin x y k : Nat) : Cmd Bool :=
  Cmd.bind (readUnordered (testAddrs p r bin x y k)) fun pixels => Cmd.pure (testHolds pixels)

/-- The word whose bit j is the j-th of the list (30_encoding R93). -/
def wordOfBits (bits : List Bool) : Word :=
  BitVec.ofNat 32 (bits.foldr (fun b acc => b.toNat + 2 * acc) 0)

/-- Word w of a descriptor: tests 32·w to 32·w + 31 (R253). -/
def describeWord (p : Params) (r : ParamRegs) (bin x y w : Nat) : Cmd Word :=
  Cmd.bind (Cmd.mapRange (32 * w) 32 (briefTest p r bin x y)) fun bits => Cmd.pure (wordOfBits bits)

/-- One keypoint: all its words are computed, then appended (R253). -/
def describeKeypoint (p : Params) (r : ParamRegs) (k : Nat) : Cmd Unit :=
  Cmd.bind (boundedKeypoint r k) fun kp =>
    if 30 ≤ (kpOrient kp).toNat then Cmd.raise .badBin (BitVec.ofNat 32 k)
    else
      Cmd.bind (Cmd.mapRange 0 r.descN.toNat
        (describeWord p r (kpOrient kp).toNat (kpX kp).toNat (kpY kp).toNat)) fun ws =>
      Cmd.forList ws appendWord

/-- The checks of R257. -/
def describeChecks (r : ParamRegs) : Cmd Unit :=
  Cmd.bind (checkRaster r) fun _ =>
  Cmd.bind (checkInBase r) fun _ =>
  Cmd.bind (check (decide (r.descN.toNat < 1) || decide (8 < r.descN.toNat)) .descN) fun _ =>
  checkWordOutput r

/-- The pixels of the first 32·N tests of keypoint k (R256), whether or not it has its margin; none where the platform
refuses its word, or where its bin is no row of the ROM (assumption 4). -/
def keypointSpans (p : Params) (r : ParamRegs) (m : Memory) (k : Nat) : List Span :=
  let kp := wordOfBytes (Memory.readBytes m (inAddr r k).toNat 4)
  if firstRefused p (inAddr r k) 4 = none ∧ (kpOrient kp).toNat < 30 then
    (List.range' 0 (32 * r.descN.toNat)).flatMap fun j =>
      byteSpans (testAddrs p r (kpOrient kp).toNat (kpX kp).toNat (kpY kp).toNat j)
  else []

/-- The read footprint of R256. -/
def describeReadSpans (p : Params) (r : ParamRegs) (m : Memory) : List Span :=
  (r.inBase.toNat, 4 * r.inCount.toNat) :: (List.range' 0 r.inCount.toNat).flatMap (keypointSpans p r m)

/-- DESCRIBE (R253), its footprints those of R256. -/
def describeBody (p : Params) (r : ParamRegs) : Cmd Unit :=
  Cmd.bind (describeChecks r) fun _ =>
  Cmd.bind (Cmd.get State.mem) fun m =>
  Cmd.bind (declareFootprint (describeReadSpans p r m)
    [outSpan r 4 (r.descN.toNat * r.inCount.toNat)]) fun _ =>
  Cmd.forRange 0 r.inCount.toNat (describeKeypoint p r)

/-- The meaning of DESCRIBE. -/
def execDescribe (s : State) : Host.Outcome State Fault Refusal :=
  runCommand id (describeBody s.params s.regs) s

end Sys2Proof.Machine
end

