-- ==== Sys2Proof/Machine/Detect.lean ====
section
/-! DEFINITION. DETECT: the FAST-9 corner detector (spec 40_fast_detect R120 to R128). -/

namespace Sys2Proof.Machine

/-- `sat_sub_u8(c, T)` (R122). -/
def darkLevel (c : Byte) (t : Nat) : Nat := c.toNat - t

/-- `sat_add_u8(c, T)` (R122). -/
def lightLevel (c : Byte) (t : Nat) : Nat := min (c.toNat + t) 255

/-- One bit of D (R122). -/
def darkBit (cmp : FastCmp) (dark : Nat) (p : Byte) : Bool :=
  match cmp with
  | .strict => decide (p.toNat < dark)
  | .nonstrict => decide (p.toNat ≤ dark)

/-- One bit of L (R122). -/
def lightBit (cmp : FastCmp) (light : Nat) (p : Byte) : Bool :=
  match cmp with
  | .strict => decide (light < p.toNat)
  | .nonstrict => decide (light ≤ p.toNat)

/-- The mask whose bit i is the i-th of the list. -/
def maskOf (n : Nat) (bits : List Bool) : BitVec n :=
  BitVec.ofNat n (bits.foldr (fun b acc => b.toNat + 2 * acc) 0)

/-- The mask D of a centre and its ring (R122). -/
def darkMask (cmp : FastCmp) (t : Nat) (c : Byte) (ring : List Byte) : BitVec 16 :=
  maskOf 16 (ring.map (darkBit cmp (darkLevel c t)))

/-- The mask L of a centre and its ring (R122). -/
def lightMask (cmp : FastCmp) (t : Nat) (c : Byte) (ring : List Byte) : BitVec 16 :=
  maskOf 16 (ring.map (lightBit cmp (lightLevel c t)))

/-- `run9` of R123: nine set bits in a row, around the ring. -/
def run9 (m : BitVec 16) : Bool :=
  (List.range' 0 16).any fun s => (List.range' 0 9).all fun k => m.getLsbD ((s + k) % 16)

/-- The corner predicate of R123. -/
def isCorner (cmp : FastCmp) (t : Nat) (c : Byte) (ring : List Byte) : Bool :=
  run9 (darkMask cmp t c ring) || run9 (lightMask cmp t c ring)

/-- The mark for a corner or a non-corner (R124). -/
def cornerMark (b : Bool) : Byte := if b then 0xFF else 0x00

/-- The addresses of a pixel and of its ring (R121). -/
def ringAddrs (p : Params) (r : ParamRegs) (x y : Nat) : List Int :=
  pixAddr r x y :: p.ring.map fun d => pixAddr r (x + d.1) (y + d.2)

/-- The mark DETECT computes from the bytes of a pixel and its ring. -/
def markOfBytes (p : Params) (r : ParamRegs) : List Byte → Byte
  | [] => 0
  | c :: ring => cornerMark (isCorner p.fastCmp r.fastT.toNat c ring)

/-- One pixel of the sweep (R124). -/
def detectPixel (p : Params) (r : ParamRegs) (y x : Nat) : Cmd Unit :=
  Cmd.bind (readUnordered (ringAddrs p r x y)) fun bs =>
  memWrite (markAddr r x y) [markOfBytes p r bs]

/-- The two right-edge bytes of a row (R125). -/
def detectEdge (r : ParamRegs) (y : Nat) : Cmd Unit :=
  if r.width.toNat % 16 = 0 then Cmd.pure ()
  else
    Cmd.bind (memWrite (markAddr r (r.width.toNat : Int) y) [0]) fun _ =>
    memWrite (markAddr r ((r.width.toNat : Int) + 1) y) [0]

/-- One row of the sweep (R124). -/
def detectRow (p : Params) (r : ParamRegs) (y : Nat) : Cmd Unit :=
  Cmd.bind (Cmd.forRange r.border.toNat (innerExtent r.width r.border) (detectPixel p r y)) fun _ =>
  detectEdge r y

/-- The read footprint that R126 states, row by row: the image pixels around the bounded region, none for an empty
one. -/
def detectReadSpans (r : ParamRegs) : List Span :=
  if innerExtent r.width r.border = 0 then []
  else if innerExtent r.height r.border = 0 then []
  else
    (List.range' (r.border.toNat - 3) (innerExtent r.height r.border + 6)).map fun (y : Nat) =>
      ((pixAddr r ((r.border.toNat - 3 : Nat) : Int) y).toNat, innerExtent r.width r.border + 6)

/-- The write footprint that R126 states, row by row: the marks of the bounded region, and the edge bytes of R125. -/
def detectWriteSpans (r : ParamRegs) : List Span :=
  (List.range' r.border.toNat (innerExtent r.height r.border)).flatMap fun (y : Nat) =>
    ((markAddr r (r.border.toNat : Int) y).toNat, innerExtent r.width r.border)
      :: if r.width.toNat % 16 = 0 then [] else [((markAddr r (r.width.toNat : Int) y).toNat, 2)]

/-- The parameter checks of R127. -/
def detectChecks (r : ParamRegs) : Cmd Unit :=
  Cmd.bind (checkRaster r) fun _ =>
  Cmd.bind (checkBorder r 3) fun _ =>
  check (decide (255 < r.fastT.toNat)) .fastT

/-- DETECT (R124). -/
def detectBody (p : Params) (r : ParamRegs) : Cmd Unit :=
  Cmd.bind (detectChecks r) fun _ =>
  Cmd.bind (declareFootprint (detectReadSpans r) (detectWriteSpans r)) fun _ =>
  Cmd.forRange r.border.toNat (innerExtent r.height r.border) (detectRow p r)

/-- The meaning of DETECT. -/
def execDetect (s : State) : Host.Outcome State Fault Refusal :=
  runCommand id (detectBody s.params s.regs) s

end Sys2Proof.Machine
end

