-- ==== Sys2Proof/Machine/Extract.lean ====
section
/-! DEFINITION. Non-maximum suppression, bucket geometry and insertion, EXTRACT and EXTRACT_BKT
(spec 42_nms_extract R160 to R174). -/

namespace Sys2Proof.Machine

/-- A comparison of R162: the neighbour's offset (u, v) from the block's origin, and whether the candidate must be
strictly larger. -/
abbrev Comparison := Int × Int × Bool

/-- The four candidates of a block, in order TL, TR, BL, BR (R161), each with its eight comparisons (R162). -/
def candidates : List ((Nat × Nat) × List Comparison) :=
  [((0, 0), [(-1, -1, false), (0, -1, false), (1, -1, true), (-1, 0, false), (1, 0, true), (-1, 1, false),
      (0, 1, true), (1, 1, true)]),
   ((1, 0), [(0, -1, false), (1, -1, false), (2, -1, true), (0, 0, true), (2, 0, true), (0, 1, true),
      (1, 1, true), (2, 1, true)]),
   ((0, 1), [(-1, 0, false), (0, 0, true), (1, 0, true), (-1, 1, false), (1, 1, true), (-1, 2, false),
      (0, 2, true), (1, 2, true)]),
   ((1, 1), [(0, 0, true), (1, 0, true), (2, 0, true), (0, 1, true), (2, 1, true), (0, 2, false),
      (1, 2, true), (2, 2, true)])]

/-- M(u, v), u, v ∈ −1 .. 2, from the 16 marks of a window given row by row (R160). -/
def windowAt (win : List Byte) (u v : Int) : Byte := win.getD (4 * (v + 1) + (u + 1)).toNat 0

/-- One comparison of R162 for a candidate of value `m`. -/
def compareHolds (win : List Byte) (m : Byte) (c : Comparison) : Bool :=
  if c.2.2 then decide ((windowAt win c.1 c.2.1).toNat < m.toNat)
  else decide ((windowAt win c.1 c.2.1).toNat ≤ m.toNat)

/-- The survival predicate of R162 for the candidate at (cu, cv). -/
def survives (win : List Byte) (cand : (Nat × Nat) × List Comparison) : Bool :=
  cand.2.all (compareHolds win (windowAt win cand.1.1 cand.1.2))

/-- A surviving candidate: its mark and its position. -/
structure Survivor where
  mark : Byte
  x : Nat
  y : Nat
  deriving DecidableEq, Repr

/-- The survivors of the block at (x, y) that lie in the bounded region, in candidate order (R161, R165). -/
def blockSurvivors (r : ParamRegs) (win : List Byte) (x y : Nat) : List Survivor :=
  (candidates.filter fun c =>
      decide (x + c.1.1 + r.border.toNat < r.width.toNat) && decide (y + c.1.2 + r.border.toNat < r.height.toNat)
        && survives win c).map
    fun c => ⟨windowAt win c.1.1 c.1.2, x + c.1.1, y + c.1.2⟩

/-- The keypoint word of a survivor (R165). -/
def Survivor.word (v : Survivor) : Word := pack v.mark (BitVec.ofNat 12 v.x) (BitVec.ofNat 12 v.y)

/-- The addresses of the 16 marks of a block's window, row by row (R160). -/
def windowAddrs (r : ParamRegs) (x y : Nat) : List Int :=
  (List.range' 0 4).flatMap fun (j : Nat) => (List.range' 0 4).map fun (i : Nat) =>
    markAddr r ((x : Int) - 1 + i) ((y : Int) - 1 + j)

/-- How many blocks the walk has along an extent (R160). -/
def blockCount (extent border : Word) : Nat := (innerExtent extent border + 1) / 2

/-- One block: its window is read, then each survivor is dealt with in order. -/
def walkBlock (r : ParamRegs) (f : Survivor → Cmd Unit) (ky kx : Nat) : Cmd Unit :=
  Cmd.bind (readUnordered (windowAddrs r (r.border.toNat + 2 * kx) (r.border.toNat + 2 * ky))) fun win =>
  Cmd.forList (blockSurvivors r win (r.border.toNat + 2 * kx) (r.border.toNat + 2 * ky)) f

/-- The blocks of the block rows lo .. lo + n − 1, in the order of R160. -/
def walkRows (r : ParamRegs) (f : Survivor → Cmd Unit) (lo n : Nat) : Cmd Unit :=
  Cmd.forRange lo n fun ky => Cmd.forRange 0 (blockCount r.width r.border) (walkBlock r f ky)

/-- The whole walk (R160). -/
def walk (r : ParamRegs) (f : Survivor → Cmd Unit) : Cmd Unit :=
  walkRows r f 0 (blockCount r.height r.border)

/-- The origins of the 2×2 blocks, in the order of R160. -/
def blockOrigins (r : ParamRegs) : List (Nat × Nat) :=
  (List.range' 0 (blockCount r.height r.border)).flatMap fun ky =>
    (List.range' 0 (blockCount r.width r.border)).map fun kx =>
      (r.border.toNat + 2 * kx, r.border.toNat + 2 * ky)

/-- The marks the walk reads (R166), four bytes for each row of a window. -/
def walkReadSpans (r : ParamRegs) : List Span :=
  (blockOrigins r).flatMap fun c => (List.range' 0 4).map fun (j : Nat) =>
    ((markAddr r ((c.1 : Int) - 1) ((c.2 : Int) - 1 + j)).toNat, 4)

/-- The survivors that a memory holds, in the order of the walk, in the windows that the platform answers (R160 to
R162). -/
def survivorsIn (p : Params) (r : ParamRegs) (m : Memory) : List Survivor :=
  (blockOrigins r).flatMap fun c =>
    if (windowAddrs r c.1 c.2).all (admitted p) then
      blockSurvivors r ((windowAddrs r c.1 c.2).map fun a => Memory.read m a.toNat) c.1 c.2
    else []

/-- The raster and border checks shared by EXTRACT, EXTRACT_BKT and GRID_BUCKET. -/
def walkChecks (r : ParamRegs) : Cmd Unit :=
  Cmd.bind (checkRaster r) fun _ => checkBorder r 2

/-- EXTRACT (R165), its checks those of R167, its footprints those of R166. -/
def extractBody (p : Params) (r : ParamRegs) : Cmd Unit :=
  Cmd.bind (walkChecks r) fun _ =>
  Cmd.bind (checkWordOutput r) fun _ =>
  Cmd.bind (Cmd.get State.mem) fun m =>
  Cmd.bind (declareFootprint (walkReadSpans r) [outSpan r 4 (survivorsIn p r m).length]) fun _ =>
  walk r fun v => appendWord v.word

/-- The meaning of EXTRACT. -/
def execExtract (s : State) : Host.Outcome State Fault Refusal :=
  runCommand id (extractBody s.params s.regs) s

/-! ## Bucket geometry and insertion -/

/-- hB or vB of R164 for one extent: the ceiling of (extent − 2B) / 2^b, 0 for an empty extent. -/
def bucketsAlong (extent border logB : Nat) : Nat := (extent - 2 * border + 2 ^ logB - 1) / 2 ^ logB

/-- geometry(W, H, B, b) = (hB, vB) of R164. Both are 0 where the region is empty, that is where W ≤ 2B or H ≤ 2B, as D21
of 92_eei_decisions says; R164 alone would leave the other extent's number (assumption 22). -/
def geometry (w h border logB : Nat) : Nat × Nat :=
  if w ≤ 2 * border ∨ h ≤ 2 * border then (0, 0) else (bucketsAlong w border logB, bucketsAlong h border logB)

/-- A word inserted into an ascending list, before the first entry that is not weaker. -/
def insertAscending (w : Word) : Bucket → Bucket
  | [] => [w]
  | b :: bs => if weaker b w then b :: insertAscending w bs else w :: b :: bs

/-- Bucket insertion (R168), its four cases. -/
def bucketInsert (k : Nat) (w : Word) : Bucket → Bucket
  | [] => [w]
  | b :: bs =>
    if bs.length + 1 < k then insertAscending w (b :: bs)
    else if weaker b w then insertAscending w bs
    else b :: bs

/-- A word inserted into one bucket of a list of buckets. -/
def insertInto (k : Nat) (w : Word) : Nat → List Bucket → List Bucket
  | _, [] => []
  | 0, b :: bs => bucketInsert k w b :: bs
  | n + 1, b :: bs => b :: insertInto k w n bs

/-- `n` empty buckets. -/
def emptyBuckets (n : Nat) : List Bucket := List.replicate n []

/-- The position of the bucket that owns image position (x, y), for `hb` bucket columns (R164). -/
def ownerBucket (hb border logB x y : Nat) : Nat :=
  (y - border) / 2 ^ logB * hb + (x - border) / 2 ^ logB

/-- HB of R164 for the parameter registers. -/
def gridCols (r : ParamRegs) : Nat := (geometry r.width.toNat r.height.toNat r.border.toNat r.logBkt.toNat).1

/-- VB of R164. -/
def gridRows (r : ParamRegs) : Nat := (geometry r.width.toNat r.height.toNat r.border.toNat r.logBkt.toNat).2

/-- The buckets left by inserting survivors in order (R164, R168). -/
def fillGrid (r : ParamRegs) (vs : List Survivor) : List Bucket :=
  vs.foldl
    (fun bs v =>
      insertInto r.bktK.toNat v.word (ownerBucket (gridCols r) r.border.toNat r.logBkt.toNat v.x v.y) bs)
    (emptyBuckets (gridCols r * gridRows r))

/-! ## EXTRACT_BKT -/

/-- Init and Flush of R169 and R171 reset the stripe's counts. -/
def resetStripe (hb : Nat) : Cmd Unit := Cmd.modifyBuckets fun _ => emptyBuckets hb

/-- How many block rows stripe i holds (R169): 2^b image rows are 2^(b−1) block rows; the last stripe may have
fewer. -/
def stripeBlockRows (r : ParamRegs) (i : Nat) : Nat :=
  min (2 ^ (r.logBkt.toNat - 1)) (blockCount r.height r.border - i * 2 ^ (r.logBkt.toNat - 1))

/-- Filling(i) of R169 and R171. -/
def fillStripe (r : ParamRegs) (i : Nat) : Cmd Unit :=
  walkRows r
    (fun v => Cmd.modifyBuckets
      (insertInto r.bktK.toNat v.word ((v.x - r.border.toNat) / 2 ^ r.logBkt.toNat)))
    (i * 2 ^ (r.logBkt.toNat - 1)) (stripeBlockRows r i)

/-- Flush(i) of R169 and R171: bucket columns in order, each weakest first, then the counts are reset. -/
def flushStripe (hb : Nat) : Cmd Unit :=
  Cmd.bind Cmd.getBuckets fun bs =>
  Cmd.bind (Cmd.forList bs fun b => Cmd.forList b appendWord) fun _ => resetStripe hb

/-- The grid storage becomes unspecified and the grid and index invalid (R169, R192; assumption 6). -/
def State.loseGrid (s : State) : State :=
  { s with
    status := { s.status with gridValid := false, indexValid := false }
    gridDim := 0
    gridTotal := 0
    grid := Config.freeGrid s.freeCount
    freeCount := s.freeCount + 1 }

/-- The checks of R172. -/
def extractBktChecks (p : Params) (r : ParamRegs) : Cmd Unit :=
  Cmd.bind (walkChecks r) fun _ =>
  Cmd.bind (checkBuckets p r) fun _ =>
  Cmd.bind (check (decide (p.maxBuckets.toNat < gridCols r)) .logBkt) fun _ =>
  checkWordOutput r

/-- EXTRACT_BKT (R169), its footprints those of R173: n is the number of words that the whole walk would flush. -/
def extractBktBody (p : Params) (r : ParamRegs) : Cmd Unit :=
  Cmd.bind (extractBktChecks p r) fun _ =>
  Cmd.bind (Cmd.get State.mem) fun m =>
  Cmd.bind (declareFootprint (walkReadSpans r)
    [outSpan r 4 (entryCount (fillGrid r (survivorsIn p r m)))]) fun _ =>
  Cmd.bind (Cmd.modify State.loseGrid) fun _ =>
  Cmd.bind (resetStripe (gridCols r)) fun _ =>
  Cmd.forRange 0 (gridRows r) fun i =>
  Cmd.bind (fillStripe r i) fun _ =>
  flushStripe (gridCols r)

/-- The meaning of EXTRACT_BKT. -/
def execExtractBkt (s : State) : Host.Outcome State Fault Refusal :=
  runCommand id (extractBktBody s.params s.regs) s

end Sys2Proof.Machine
end

