-- ==== Sys2Proof/Machine/Grid.lean ====
section
/-! DEFINITION. The feature grid: GRID_BUCKET, GRID_REDUCE, GRID_INDEX and GRID_QUERY
(spec 43_feature_grid R190 to R207). -/

namespace Sys2Proof.Machine

/-! ## GRID_BUCKET -/

/-- The checks of R194. -/
def gridBucketChecks (p : Params) (r : ParamRegs) : Cmd Unit :=
  Cmd.bind (walkChecks r) fun _ =>
  Cmd.bind (checkBuckets p r) fun _ =>
  check (decide (p.maxBuckets.toNat < gridCols r * gridRows r)) .logBkt

/-- The grid that GRID_BUCKET leaves in storage, once its buckets are filled (R192). -/
def builtGrid (r : ParamRegs) (buckets : List Bucket) : Grid where
  w := r.width.toNat
  h := r.height.toNat
  border := r.border.toNat
  logB := r.logBkt.toNat
  k := r.bktK.toNat
  hb := gridCols r
  vb := gridRows r
  buckets := buckets

/-- A grid becomes the valid grid in storage (R192). -/
def State.installGrid (s : State) (g : Grid) : State :=
  { s with
    status := { s.status with gridValid := true }
    gridDim := gridDimWord g.hb g.vb
    gridTotal := BitVec.ofNat 32 (entryCount g.buckets)
    grid := g }

/-- GRID_BUCKET (R192). -/
def gridBucketBody (p : Params) (r : ParamRegs) : Cmd Unit :=
  Cmd.bind (gridBucketChecks p r) fun _ =>
  Cmd.bind (Cmd.modify State.loseGrid) fun _ =>
  Cmd.bind (Cmd.modifyBuckets fun _ => emptyBuckets (gridCols r * gridRows r)) fun _ =>
  Cmd.bind (walk r fun v => Cmd.modifyBuckets (insertInto r.bktK.toNat v.word
    (ownerBucket (gridCols r) r.border.toNat r.logBkt.toNat v.x v.y))) fun _ =>
  Cmd.bind Cmd.getBuckets fun bs =>
  Cmd.modify fun s => s.installGrid (builtGrid r bs)

/-- The meaning of GRID_BUCKET. -/
def execGridBucket (s : State) : Host.Outcome State Fault Refusal :=
  runCommand State.refreshTotal (gridBucketBody s.params s.regs) s

/-! ## GRID_REDUCE -/

/-- Bucket number q of the storage. -/
def bucketAt (bs : List Bucket) (q : Nat) : Bucket := bs.getD q []

/-- Σ c(q) over the cells of a super-cell (R197). -/
def cellCount (bs : List Bucket) : List Nat → Nat
  | [] => 0
  | q :: qs => (bucketAt bs q).length + cellCount bs qs

/-- The first of the cells whose bucket is not empty and whose weakest entry is minimal (R197), as (cell, entry). -/
def weakestCell (bs : List Bucket) : List Nat → Option (Nat × Word)
  | [] => none
  | q :: qs =>
    match bucketAt bs q, weakestCell bs qs with
    | [], best => best
    | w :: _, none => some (q, w)
    | w :: _, some (q', w') => if weaker w' w then some (q', w') else some (q, w)

/-- The weakest entry of bucket q removed. -/
def dropWeakest : Nat → List Bucket → List Bucket
  | _, [] => []
  | 0, b :: bs => b.tail :: bs
  | n + 1, b :: bs => b :: dropWeakest n bs

/-- The `while` of R197 for one super-cell: buckets and total. `fuel` is at least the number of entries it holds. -/
def trimCell (n tgt : Nat) (cells : List Nat) : Nat → List Bucket × Nat → List Bucket × Nat
  | 0, g => g
  | fuel + 1, (bs, total) =>
    if n < cellCount bs cells ∧ tgt < total then
      match weakestCell bs cells with
      | none => (bs, total)
      | some (q, _) => trimCell n tgt cells fuel (dropWeakest q bs, total - 1)
    else (bs, total)

/-- The cells of super-cell (si, sj), in the list order of R197. -/
def superCell (hb si sj : Nat) : List Nat :=
  [2 * si * hb + 2 * sj, 2 * si * hb + (2 * sj + 1), (2 * si + 1) * hb + 2 * sj, (2 * si + 1) * hb + (2 * sj + 1)]

/-- Every super-cell of a grid, row by row (R197). -/
def superCells (hb vb : Nat) : List (List Nat) :=
  (List.range' 0 (vb / 2)).flatMap fun si => (List.range' 0 (hb / 2)).map fun sj => superCell hb si sj

/-- One level of R197: every super-cell trimmed to n, while the total is above the target. -/
def reduceLevel (n tgt : Nat) : List (List Nat) → List Bucket × Nat → List Bucket × Nat
  | [], g => g
  | cells :: rest, g => reduceLevel n tgt rest (trimCell n tgt cells (cellCount g.1 cells) g)

/-- The levels of R197 and R198. `fuel` is above the number of levels, which is at most n − mn + 1. -/
def reduceLevels (mn st tgt : Nat) (cells : List (List Nat)) : Nat → Nat → List Bucket × Nat → List Bucket × Nat
  | 0, _, g => g
  | fuel + 1, n, g =>
    let g' := reduceLevel n tgt cells g
    if g'.2 ≤ tgt ∨ n ≤ mn then g' else reduceLevels mn st tgt cells fuel (max (n - st) mn) g'

/-- The buckets and the total GRID_REDUCE leaves (R197). -/
def reduceGrid (g : Grid) (mn mx st tgt : Nat) : List Bucket × Nat :=
  reduceLevels mn st tgt (superCells g.hb g.vb) (mx - mn + 1) mx (g.buckets, entryCount g.buckets)

/-- `if GRID_VALID = 0: raise NO_GRID(0)` (60_exceptions R277). -/
def requireGrid : Cmd Unit :=
  Cmd.bind (Cmd.get fun s => s.status.gridValid) fun v => if v then Cmd.pure () else Cmd.raise .noGrid 0

/-- `if INDEX_VALID = 0: raise NO_GRID(1)` (60_exceptions R277). -/
def requireIndex : Cmd Unit :=
  Cmd.bind (Cmd.get fun s => s.status.indexValid) fun v => if v then Cmd.pure () else Cmd.raise .noGrid 1

/-- INDEX_VALID <- 0. -/
def State.dropIndex (s : State) : State := { s with status := { s.status with indexValid := false } }

/-- What GRID_REDUCE does to the grid and to RESULT and GRID_TOTAL (R197). -/
def State.reduce (s : State) : State :=
  let g := reduceGrid s.grid s.regs.redMin.toNat s.regs.redMax.toNat s.regs.redStep.toNat s.regs.redTarget.toNat
  { s.dropIndex with
    grid := { s.grid with buckets := g.1 }
    result := BitVec.ofNat 32 g.2
    gridTotal := BitVec.ofNat 32 g.2 }

/-- GRID_REDUCE (R197), its checks those of R200. -/
def gridReduceBody (r : ParamRegs) : Cmd Unit :=
  Cmd.bind requireGrid fun _ =>
  Cmd.bind (check (decide (r.redStep = 0)) .redStep) fun _ =>
  Cmd.bind (check (decide (r.redMax.toNat < r.redMin.toNat)) .redMin) fun _ =>
  Cmd.modify State.reduce

/-- The meaning of GRID_REDUCE. -/
def execGridReduce (s : State) : Host.Outcome State Fault Refusal :=
  runCommand State.refreshTotal (gridReduceBody s.regs) s

/-! ## GRID_INDEX -/

/-- Slot n of the index table set, the slots after it kept (10_state R48). -/
def setSlot (v : Word) : Nat → List Word → List Word
  | 0, [] => [v]
  | 0, _ :: t => v :: t
  | n + 1, [] => 0 :: setSlot v n []
  | n + 1, x :: t => x :: setSlot v n t

/-- One bucket of GRID_INDEX: its start, then its entries (R201). -/
def indexBucket (g : Grid) (q : Nat) : Cmd Unit :=
  Cmd.bind (Cmd.modify fun s => { s with index := setSlot s.regs.outCount q s.index }) fun _ =>
  Cmd.forList (bucketAt g.buckets q) appendWord

/-- INDEX_VALID <- 1. -/
def State.validateIndex (s : State) : State := { s with status := { s.status with indexValid := true } }

/-- GRID_INDEX (R201), its checks those of R202. -/
def gridIndexBody (g : Grid) (r : ParamRegs) : Cmd Unit :=
  Cmd.bind requireGrid fun _ =>
  Cmd.bind (checkWordOutput r) fun _ =>
  Cmd.bind (Cmd.modify State.dropIndex) fun _ =>
  Cmd.bind (Cmd.forRange 0 g.vb fun i => Cmd.forRange 0 g.hb fun j => indexBucket g (i * g.hb + j)) fun _ =>
  Cmd.modify State.validateIndex

/-- The meaning of GRID_INDEX. -/
def execGridIndex (s : State) : Host.Outcome State Fault Refusal :=
  runCommand State.refreshTotal (gridIndexBody s.grid s.regs) s

/-! ## GRID_QUERY -/

/-- The cell along one axis that a coordinate falls in, clamped to 0 .. cells − 1 (R204, R205). -/
def clampedCell (v border : Int) (logB cells : Nat) : Nat :=
  (clampInt ((v - border) / 2 ^ logB) 0 ((cells : Int) - 1)).toNat

/-- The point test of R204. -/
def inArea (x y r : Int) (kp : Word) : Bool :=
  decide (((kpX kp).toNat - x).natAbs ≤ r.toNat) && decide (((kpY kp).toNat - y).natAbs ≤ r.toNat)

/-- The entries of one bucket from number e on: the index of each that passes the point test is appended (R204). -/
def queryEntries (x y r : Int) (start : Word) : Nat → Bucket → Cmd Unit
  | _, [] => Cmd.pure ()
  | e, kp :: rest =>
    Cmd.bind (if inArea x y r kp then appendWord (start + BitVec.ofNat 32 e) else Cmd.pure ()) fun _ =>
    queryEntries x y r start (e + 1) rest

/-- The loops of R204 over the clamped cell rectangle. -/
def queryCells (g : Grid) (index : List Word) (x y r : Int) : Cmd Unit :=
  let jlo := clampedCell (x - r) g.border g.logB g.hb
  let jhi := clampedCell (x + r) g.border g.logB g.hb
  let ilo := clampedCell (y - r) g.border g.logB g.vb
  let ihi := clampedCell (y + r) g.border g.logB g.vb
  Cmd.forRange ilo (ihi + 1 - ilo) fun i =>
  Cmd.forRange jlo (jhi + 1 - jlo) fun j =>
  queryEntries x y r (index.getD (i * g.hb + j) 0) 0 (bucketAt g.buckets (i * g.hb + j))

/-- GRID_QUERY (R204), its checks those of R206. -/
def gridQueryBody (g : Grid) (index : List Word) (r : ParamRegs) : Cmd Unit :=
  Cmd.bind requireGrid fun _ =>
  Cmd.bind requireIndex fun _ =>
  Cmd.bind (check (decide (r.qR.toInt < 0)) .qR) fun _ =>
  Cmd.bind (checkWordOutput r) fun _ =>
  if g.hb = 0 ∨ g.vb = 0 then Cmd.pure ()
  else queryCells g index r.qX.toInt r.qY.toInt r.qR.toInt

/-- The meaning of GRID_QUERY. -/
def execGridQuery (s : State) : Host.Outcome State Fault Refusal :=
  runCommand State.refreshTotal (gridQueryBody s.grid s.index s.regs) s

end Sys2Proof.Machine
end

