-- ==== Sys2Proof/Machine/Score.lean ====
section
/-! DEFINITION. SCORE: the Harris response and its mini-float (spec 41_harris_score R140 to R150). -/

namespace Sys2Proof.Machine

/-- P(dc, dr) for the pixel at (column i, row j) of the 8×8 patch, the patch given row by row (R140, R141). -/
def patchAt (patch : List Byte) (i j : Nat) : Int := ((patch.getD (8 * j + i) 0).toNat : Int)

/-- The Sobel sum Sx at column i, row j of the patch, 1 ≤ i, j ≤ 6 (R141). -/
def sobelX (patch : List Byte) (i j : Nat) : Int :=
  (patchAt patch (i + 1) (j - 1) + 2 * patchAt patch (i + 1) j + patchAt patch (i + 1) (j + 1))
    - (patchAt patch (i - 1) (j - 1) + 2 * patchAt patch (i - 1) j + patchAt patch (i - 1) (j + 1))

/-- The Sobel sum Sy (R141). -/
def sobelY (patch : List Byte) (i j : Nat) : Int :=
  (patchAt patch (i - 1) (j + 1) + 2 * patchAt patch i (j + 1) + patchAt patch (i + 1) (j + 1))
    - (patchAt patch (i - 1) (j - 1) + 2 * patchAt patch i (j - 1) + patchAt patch (i + 1) (j - 1))

/-- The nine bytes around column i, row j of the patch, row by row. -/
def neighbourhood (patch : List Byte) (i j : Nat) : List Byte :=
  [j - 1, j, j + 1].flatMap fun v => [i - 1, i, i + 1].map fun u => patch.getD (8 * v + u) 0

/-- `SOBEL_GRAD` (R141): the gradients (dx, dy). -/
def gradient (g : SobelGrad) (patch : List Byte) (i j : Nat) : Int × Int :=
  match g with
  | .floorDiv8 => (sobelX patch i j / 8, sobelY patch i j / 8)
  | .other n =>
    ((Config.sobelGradOther n (neighbourhood patch i j)).1.toInt,
     (Config.sobelGradOther n (neighbourhood patch i j)).2.toInt)

/-- The gradients at the 36 pixels of the inner window (R140). -/
def windowGradients (g : SobelGrad) (patch : List Byte) : List (Int × Int) :=
  (List.range' 1 6).flatMap fun j => (List.range' 1 6).map fun i => gradient g patch i j

/-- Σ f over a list. -/
def sumOver {α : Type} (f : α → Int) : List α → Int
  | [] => 0
  | a :: as => f a + sumOver f as

/-- The response of R143 and R144 from Ixx, Iyy and Ixy of R142. -/
def harrisResponse (ixx iyy ixy : Int) : Int :=
  let a := ixx / 16
  let b := iyy / 16
  let c := ixy / 16
  let det := wrapI32 (a * b - c * c)
  let trace := wrapU32 (a + b)
  let tr2 := wrapU32 (trace * trace)
  wrapI32 (det - tr2 / 16)

/-- The score of a patch (R140 to R144). -/
def patchScore (g : SobelGrad) (patch : List Byte) : Int :=
  let gs := windowGradients g patch
  harrisResponse (wrapU32 (sumOver (fun d => d.1 * d.1) gs)) (wrapU32 (sumOver (fun d => d.2 * d.2) gs))
    (wrapI32 (sumOver (fun d => d.1 * d.2) gs))

/-- The mini-float of R146. -/
def minifloat (bias score : Int) : Byte :=
  if score ≤ 0 then 0
  else BitVec.ofInt 8 ((((F32.ofInt score).bits.toNat / 1048576 : Nat) : Int) - 8 * bias)

/-- `harris` of R145, from the patch. -/
def harrisOfPatch (p : Params) (thr : Int) (patch : List Byte) : Byte :=
  if patchScore p.sobelGrad patch ≤ thr then 0
  else minifloat p.minifloatBias (patchScore p.sobelGrad patch)

/-- The addresses of the 8×8 patch of (x, y), row by row: one pixel around the 6×6 window, which begins at
`HARRIS_WIN_LO` (R140). -/
def patchAddrs (p : Params) (r : ParamRegs) (x y : Nat) : List Int :=
  (List.range' 0 8).flatMap fun (j : Nat) => (List.range' 0 8).map fun (i : Nat) =>
    pixAddr r (x + p.harrisWinLo - 1 + i) (y + p.harrisWinLo - 1 + j)

/-- One mark of the sweep (R147). -/
def scorePixel (p : Params) (r : ParamRegs) (y x : Nat) : Cmd Unit :=
  Cmd.bind (memReadByte (markAddr r x y)) fun m =>
    if m = 0 then Cmd.pure ()
    else
      Cmd.bind (readUnordered (patchAddrs p r x y)) fun patch =>
      memWrite (markAddr r x y) [harrisOfPatch p r.harrisT.toInt patch]

/-- The parameter checks of R149. -/
def scoreChecks (r : ParamRegs) : Cmd Unit :=
  Cmd.bind (checkRaster r) fun _ => checkBorder r 4

/-- The cells of the bounded region whose mark the platform answers with a value that is not 0. -/
def nonzeroMarks (p : Params) (r : ParamRegs) (m : Memory) : List (Nat × Nat) :=
  (regionCells r).filter fun c =>
    admitted p (markAddr r c.1 c.2) && decide (Memory.read m (markAddr r c.1 c.2).toNat ≠ 0)

/-- The image pixels SCORE reads (R148). Its mark reads are no part of the read footprint here, since R67 lets them meet
its mark writes. -/
def scoreReadSpans (p : Params) (r : ParamRegs) (m : Memory) : List Span :=
  (nonzeroMarks p r m).flatMap fun c => byteSpans (patchAddrs p r c.1 c.2)

/-- The marks SCORE writes (R148). -/
def scoreWriteSpans (p : Params) (r : ParamRegs) (m : Memory) : List Span :=
  byteSpans ((nonzeroMarks p r m).map fun c => markAddr r c.1 c.2)

/-- SCORE (R147). -/
def scoreBody (p : Params) (r : ParamRegs) : Cmd Unit :=
  Cmd.bind (scoreChecks r) fun _ =>
  Cmd.bind (Cmd.get State.mem) fun m =>
  Cmd.bind (declareFootprint (scoreReadSpans p r m) (scoreWriteSpans p r m)) fun _ =>
  Cmd.forRange r.border.toNat (innerExtent r.height r.border) fun y =>
  Cmd.forRange r.border.toNat (innerExtent r.width r.border) (scorePixel p r y)

/-- The meaning of SCORE. -/
def execScore (s : State) : Host.Outcome State Fault Refusal :=
  runCommand id (scoreBody s.params s.regs) s

end Sys2Proof.Machine
end

