-- ==== Sys2Proof/Machine/Dispatch.lean ====
section
/-! DEFINITION. One arm for each command (spec 30_encoding R81). -/

namespace Sys2Proof.Machine

/-- The execution of an accepted command (10_state R22). -/
def exec (i : Instr) (s : State) : Host.Outcome State Fault Refusal :=
  match i with
  | .detect => Sys2Proof.Machine.execDetect s
  | .score => Sys2Proof.Machine.execScore s
  | .extract => Sys2Proof.Machine.execExtract s
  | .extractBkt => Sys2Proof.Machine.execExtractBkt s
  | .gridBucket => Sys2Proof.Machine.execGridBucket s
  | .gridReduce => Sys2Proof.Machine.execGridReduce s
  | .gridIndex => Sys2Proof.Machine.execGridIndex s
  | .gridQuery => Sys2Proof.Machine.execGridQuery s
  | .centroid => Sys2Proof.Machine.execCentroid s
  | .atan2 => Sys2Proof.Machine.execAtan2 s
  | .describe => Sys2Proof.Machine.execDescribe s

end Sys2Proof.Machine
end

