-- ==== Sys2Proof/Machine/HostPort.lean ====
section
/-! DEFINITION. The host's side of the machine: register accesses (spec 10_state R21 to R23, R42 to R44), command
requests (R22), memory accesses (30_encoding R95), the reset input (70_reset_and_hazards R300, R301), and the
pseudo-instructions of 30_encoding R96. -/

namespace Sys2Proof.Machine

/-! ## Commands -/

/-- The execution of the accepted word `v` (30_encoding R80): its command, or BAD_OPCODE (60_exceptions R271). -/
def runWord (v : Word) (s : State) : Host.Outcome State Fault Refusal :=
  match decode v with
  | .ok i => exec i s
  | .error _ => .next (s.raise .badOpcode v)

/-- Whether a command request is accepted (10_state R22). -/
def acceptsRequest (s : State) : Bool := !s.status.busy && !s.status.err

/-- A command request (10_state R22): accepted and executed, or dropped. -/
def requestCommand (v : Word) (s : State) : Host.Outcome State Fault Refusal :=
  if acceptsRequest s then runWord v (s.accept v) else .next s.drop

/-! ## The register window -/

/-- A register of the window (10_state R21). -/
inductive RegName where
  | cmd | status | errInfo | result
  | param (p : ParamReg)
  | gridDim | gridTotal | cfgMaxK | cfgMaxBuckets
  deriving DecidableEq, Repr

/-- The parameter register at an offset, among those of a list. -/
def paramAtIn (offset : BitVec 8) : List ParamReg → Option ParamReg
  | [] => none
  | p :: ps => if p.offset = offset then some p else paramAtIn offset ps

/-- The register at an offset; none at a reserved or misaligned offset (10_state R21). -/
def regAt (offset : BitVec 8) : Option RegName :=
  match offset.toNat with
  | 0x00 => some .cmd
  | 0x04 => some .status
  | 0x08 => some .errInfo
  | 0x0C => some .result
  | 0x6C => some .gridDim
  | 0x70 => some .gridTotal
  | 0x74 => some .cfgMaxK
  | 0x78 => some .cfgMaxBuckets
  | _ => (paramAtIn offset ParamReg.all).map .param

/-- The register a host access reaches: a 32-bit access at the offset of a register, and only that (10_state R21). -/
def accessedReg (width : AccessWidth) (offset : BitVec 8) : Option RegName :=
  match width with
  | .w32 => regAt offset
  | .w8 => none
  | .w16 => none
  | .w64 => none

/-- What a register reads as (10_state R21 to R25, R40 to R44). -/
def readReg (s : State) : RegName → Word
  | .cmd => s.cmd
  | .status => s.status.word
  | .errInfo => s.errInfo
  | .result => s.result
  | .param p => s.regs.get p
  | .gridDim => s.gridDim
  | .gridTotal => s.gridTotal
  | .cfgMaxK => s.params.maxK
  | .cfgMaxBuckets => s.params.maxBuckets

/-- Whether the model leaves a register's value open while a command runs (10_state R43, U9). -/
def openWhileBusy : RegName → Bool
  | .result => true
  | .gridTotal => true
  | .param p => decide (p = .outCount)
  | .cmd | .status | .errInfo | .gridDim | .cfgMaxK | .cfgMaxBuckets => false

/-- A host read that returns `v`. -/
def State.returnRead (s : State) (v : Word) : State := { s with readData := v }

/-- A host read of a register (10_state R21, R43; 70_reset_and_hazards R300). -/
def hostRegRead (width : AccessWidth) (offset : BitVec 8) (s : State) : Host.Outcome State Fault Refusal :=
  if s.inReset then .next (s.returnRead 0)
  else
    match accessedReg width offset with
    | none => .next (s.returnRead 0)
    | some r =>
      if s.status.busy && openWhileBusy r then .refused .registerReadWhileBusy
      else .next (s.returnRead (readReg s r))

/-- A write to a register that BUSY does not drop (10_state R21 to R23, R44). -/
def writeReg (r : RegName) (v : Word) (s : State) : Host.Outcome State Fault Refusal :=
  match r with
  | .cmd => requestCommand v s
  | .status => .next { s with status := s.status.writeOneToClear v }
  | .param p => .next { s with regs := s.regs.set p v }
  | .errInfo | .result | .gridDim | .gridTotal | .cfgMaxK | .cfgMaxBuckets => .next s

/-- Whether an access has the width and alignment the window answers (10_state R21). -/
def wellFormedAccess (width : AccessWidth) (offset : BitVec 8) : Bool :=
  decide (width = .w32) && decide (offset.toNat % 4 = 0)

/-- A host write of a register (10_state R21, R43; 70_reset_and_hazards R300). -/
def hostRegWrite (width : AccessWidth) (offset : BitVec 8) (v : Word) (s : State) :
    Host.Outcome State Fault Refusal :=
  if s.inReset then .next s
  else if wellFormedAccess width offset then
    if s.status.busy then .next s.drop
    else
      match accessedReg width offset with
      | none => .next s
      | some r => writeReg r v s
  else .next s

/-! ## Memory -/

/-- A host access of memory (20_memory R60), refused while a command runs (R70, U6). -/
def hostMemory (next : State → Host.Outcome State Fault Refusal) (s : State) : Host.Outcome State Fault Refusal :=
  if s.status.busy then .refused .hostMemoryWhileBusy else next s

/-- A host word access that must lie in the 2^32 bytes of memory (assumption 12). -/
def hostWord (a : Word) (next : State → State) (s : State) : Host.Outcome State Fault Refusal :=
  if a.toNat + 4 ≤ 4294967296 then .next (next s) else .fault .hostAddressOutOfRange

/-- The host writes bytes. -/
def State.store (s : State) (a : Nat) (bs : List Byte) : State := { s with mem := Memory.writeBytes s.mem a bs }

/-! ## Reset -/

/-- The reset input is asserted (70_reset_and_hazards R300). -/
def State.assertReset (s : State) : State := { s with inReset := true }

/-- The state when the reset input is released (R300): the parameters (the pattern ROM among them), memory and the
model's own fields stay. -/
def State.afterReset (s : State) : State :=
  { State.reset with
    params := s.params
    grid := Config.freeGrid s.freeCount
    index := Config.freeIndex s.freeCount
    mem := s.mem
    inputs := s.inputs
    readData := s.readData
    freeCount := s.freeCount + 1 }

/-- The reset input is released; nothing where it was not asserted. -/
def State.releaseReset (s : State) : State := if s.inReset then s.afterReset else s

/-- The bytes of a list of addresses taken from `new` where the choice says that the write landed. -/
def landWrites (choice : Nat → Bool) (new : Memory) : List Nat → Memory → Memory
  | [], m => m
  | a :: as, m =>
    landWrites choice new as (if choice a then Memory.write m a (Memory.read new a) else m)

/-- Memory after reset aborts a command that would have turned `old` into `new` (R301, U7): each byte has its old
value or its new one. -/
def abortedMemory (choice : Nat → Bool) (old new : Memory) : Memory :=
  landWrites choice new (old.map Prod.fst ++ new.map Prod.fst) old

/-- Reset asserted while the command requested by `v` runs (R301); a request that is not accepted starts none. -/
def resetDuring (v : Word) (s : State) : Host.Outcome State Fault Refusal :=
  if s.inReset then .next s
  else if acceptsRequest s then
    match runWord v (s.accept v) with
    | .next t =>
      .next (State.assertReset { s with
        cmd := v
        mem := abortedMemory (Config.abortedWriteLanded s.freeCount) s.mem t.mem
        freeCount := s.freeCount + 1 })
    | .fault f => .fault f
    | .refused r => .refused r
  else .next s.drop.assertReset

/-! ## One act of the host -/

/-- What one act of the host does. -/
def hostEvent (e : HostEvent) (s : State) : Host.Outcome State Fault Refusal :=
  match e with
  | .regWrite width offset v => hostRegWrite width offset v s
  | .regRead width offset => hostRegRead width offset s
  | .memWriteByte a v => hostMemory (fun s => .next (s.store a.toNat [v])) s
  | .memWriteWord a v => hostMemory (hostWord a fun s => s.store a.toNat (wordBytes v)) s
  | .memReadByte a => hostMemory (fun s => .next (s.returnRead ((Memory.read s.mem a.toNat).setWidth 32))) s
  | .memReadWord a =>
    hostMemory (hostWord a fun s => s.returnRead (wordOfBytes (Memory.readBytes s.mem a.toNat 4))) s
  | .resetAssert => .next s.assertReset
  | .resetRelease => .next s.releaseReset
  | .resetDuringCommand v => resetDuring v s

/-- One step: the host's next act; an idle block keeps all its state (60_exceptions R287). -/
def stepInput (s : State) : Host.Outcome State Fault Refusal :=
  match s.inputs with
  | [] => .next s
  | e :: rest => hostEvent e { s with inputs := rest }

/-- The host write of a command word to CMD put first among the host's acts, and the block ready to accept it. -/
def State.presentCommand (s : State) (v : Word) : State :=
  { s with
    status := { s.status with busy := false, err := false, errCode := .none }
    inReset := false
    inputs := .regWrite .w32 0x00 v :: s.inputs }

/-! ## The host's notation (30_encoding R95, R96) -/

/-- The offset of a register (10_state R21). -/
def RegName.offset : RegName → BitVec 8
  | .cmd => 0x00
  | .status => 0x04
  | .errInfo => 0x08
  | .result => 0x0C
  | .param p => p.offset
  | .gridDim => 0x6C
  | .gridTotal => 0x70
  | .cfgMaxK => 0x74
  | .cfgMaxBuckets => 0x78

/-- `wr NAME, v`. -/
def hostWr (r : RegName) (v : Word) : HostEvent := .regWrite .w32 r.offset v

/-- `rd NAME`. -/
def hostRd (r : RegName) : HostEvent := .regRead .w32 r.offset

/-- `cmd MNEMONIC`. -/
def hostCmd (i : Instr) : HostEvent := hostWr .cmd (encode i)

/-- `wait`: one read of STATUS, since the host never observes BUSY = 1 (10_state R43). -/
def hostWait : HostEvent := hostRd .status

/-- `run MNEMONIC`. -/
def hostRun (i : Instr) : List HostEvent := [hostCmd i, hostWait]

/-- `clr`. -/
def hostClr : List HostEvent := [hostWr .status 0x0000000E]

/-- `setraster I, M, S, W, H, B`. -/
def hostSetRaster (i m s w h b : Word) : List HostEvent :=
  [hostWr (.param .imgBase) i, hostWr (.param .marksBase) m, hostWr (.param .stride) s, hostWr (.param .width) w,
   hostWr (.param .height) h, hostWr (.param .border) b]

/-- `setout A, C, N`. -/
def hostSetOut (a c n : Word) : List HostEvent :=
  [hostWr (.param .outBase) a, hostWr (.param .outCap) c, hostWr (.param .outCount) n]

/-- `setin A, N`. -/
def hostSetIn (a n : Word) : List HostEvent :=
  [hostWr (.param .inBase) a, hostWr (.param .inCount) n]

end Sys2Proof.Machine
end

