-- ==== Sys2Proof/Machine/Step.lean ====
section
/-! DEFINITION. One step of the machine (spec 00_scope R6), and where it takes its next instruction from. -/

namespace Sys2Proof.Machine

/-- One step: the host's next act, a command being one atomic step from acceptance to completion (R6). -/
def step (s : State) : Host.Outcome State Fault Refusal := stepInput s

/-- The state whose next step runs the command word of `nbits` bits `w`: a host write of it to CMD stands first among
the host's acts, and the block is ready to accept it (assumption 1). -/
def State.withFetchWord (s : State) (nbits w : Nat) : State :=
  s.presentCommand (BitVec.ofNat 32 (w % 2 ^ nbits))

end Sys2Proof.Machine
end

