-- ==== Sys2Proof/Safety.lean ====
section
/-! DEFINITION. What statements about the machine speak of: the invariants of its states, the conditions under which a
command completes, the footprints and the results its rule gives it, each computed without running it. -/

namespace Sys2Proof.Safety

open Sys2Proof.Machine

/-! ## The error checks (spec 60_exceptions R288) -/

/-- One line of a command's check list: whether the check fails, and the ERR_INFO it then gives. -/
abbrev Check := Bool × Word

/-- W > 4096, H > 4096, S < W. -/
def rasterChecks (r : ParamRegs) : List Check :=
  [(decide (4096 < r.width.toNat), 0x01C), (decide (4096 < r.height.toNat), 0x020),
   (decide (r.stride.toNat < r.width.toNat), 0x018)]

/-- B below a minimum. -/
def borderCheck (r : ParamRegs) (least : Nat) : Check := (decide (r.border.toNat < least), 0x024)

/-- OUT_BASE not 4-aligned. -/
def outBaseCheck (r : ParamRegs) : Check := (decide (r.outBase.toNat % 4 ≠ 0), 0x040)

/-- IN_BASE not 4-aligned. -/
def inBaseCheck (r : ParamRegs) : Check := (decide (r.inBase.toNat % 4 ≠ 0), 0x038)

/-- OUT_COUNT > OUT_CAP. -/
def outCountCheck (r : ParamRegs) : Check := (decide (r.outCap.toNat < r.outCount.toNat), 0x048)

/-- b outside 1 .. 12, K outside 1 .. MAX_K. -/
def bucketChecks (p : Params) (r : ParamRegs) : List Check :=
  [(decide (r.logBkt.toNat = 0 ∨ 12 < r.logBkt.toNat), 0x030),
   (decide (r.bktK.toNat = 0 ∨ p.maxK.toNat < r.bktK.toNat), 0x034)]

/-- The BAD_PARAM checks of each command, in the order of R288. -/
def paramChecks (p : Params) (r : ParamRegs) : Instr → List Check
  | .detect => rasterChecks r ++ [borderCheck r 3, (decide (255 < r.fastT.toNat), 0x028)]
  | .score => rasterChecks r ++ [borderCheck r 4]
  | .extract => rasterChecks r ++ [borderCheck r 2, outBaseCheck r, outCountCheck r]
  | .extractBkt =>
    rasterChecks r ++ [borderCheck r 2] ++ bucketChecks p r
      ++ [(decide (p.maxBuckets.toNat < gridCols r), 0x030), outBaseCheck r, outCountCheck r]
  | .gridBucket =>
    rasterChecks r ++ [borderCheck r 2] ++ bucketChecks p r
      ++ [(decide (p.maxBuckets.toNat < gridCols r * gridRows r), 0x030)]
  | .gridReduce => [(decide (r.redStep = 0), 0x060), (decide (r.redMax.toNat < r.redMin.toNat), 0x058)]
  | .gridIndex => [outBaseCheck r, outCountCheck r]
  | .gridQuery => [(decide (r.qR.toInt < 0), 0x054), outBaseCheck r, outCountCheck r]
  | .centroid => rasterChecks r ++ [inBaseCheck r, outBaseCheck r, outCountCheck r]
  | .atan2 => [inBaseCheck r, outCountCheck r]
  | .describe =>
    rasterChecks r
      ++ [inBaseCheck r, (decide (r.descN.toNat < 1 ∨ 8 < r.descN.toNat), 0x068), outBaseCheck r, outCountCheck r]

/-- The ERR_INFO of the first check that fails. -/
def firstFailed : List Check → Option Word
  | [] => none
  | (bad, info) :: rest => if bad then some info else firstFailed rest

/-- No check of the command fails. -/
abbrev Legal (i : Instr) (s : State) : Prop := firstFailed (paramChecks s.params s.regs i) = none

/-- The detail word of NO_GRID, where the command finds no valid grid or index (60_exceptions R277). -/
def missingGrid (s : State) : Instr → Option Word
  | .gridReduce | .gridIndex => if s.status.gridValid then none else some 0
  | .gridQuery => if s.status.gridValid then (if s.status.indexValid then none else some 1) else some 0
  | .detect | .score | .extract | .extractBkt | .gridBucket | .centroid | .atan2 | .describe => none

/-- The commands of the grid family, which set GRID_TOTAL when they end (10_state R41). -/
def isGridCommand : Instr → Bool
  | .gridBucket | .gridReduce | .gridIndex | .gridQuery => true
  | .detect | .score | .extract | .extractBkt | .centroid | .atan2 | .describe => false

/-- The commands that append to the output array, with the size of their elements (20_memory R66). -/
def elementSize : Instr → Option Nat
  | .extract | .extractBkt | .gridIndex | .gridQuery | .centroid | .describe => some 4
  | .atan2 => some 1
  | .detect | .score | .gridBucket | .gridReduce => none

/-! ## Memory -/

/-- The little-endian word at an address (20_memory R62). -/
def wordAt (m : Memory) (a : Nat) : Word := wordOfBytes (Memory.readBytes m a 4)

/-- The byte at an address computed exactly. -/
def byteAt (m : Memory) (a : Int) : Byte := Memory.read m a.toNat

/-- `n` consecutive byte addresses. -/
def bytesFrom (a : Nat) (n : Nat) : List Int := (List.range' a n).map Int.ofNat

/-- The platform answers at every address of a list (20_memory R65). -/
abbrev AllAdmitted (p : Params) (as : List Int) : Prop := ∀ a ∈ as, admitted p a = true

/-- A write footprint does not overlap a read footprint (20_memory R67). -/
abbrev Apart (reads writes : List Int) : Prop := ∀ a ∈ writes, a ∉ reads

/-! ## Appending -/

/-- The byte address of the next element of the output array. -/
def outStart (r : ParamRegs) (esize : Nat) : Nat := r.outBase.toNat + esize * r.outCount.toNat

/-- The bytes of the next `n` elements. -/
def outAddrs (r : ParamRegs) (esize n : Nat) : List Int := bytesFrom (outStart r esize) (esize * n)

/-- There is room for `n` elements, and the platform answers at their bytes. -/
abbrev Room (s : State) (esize n : Nat) : Prop :=
  s.regs.outCount.toNat + n ≤ s.regs.outCap.toNat ∧ AllAdmitted s.params (outAddrs s.regs esize n)

/-- `t` is `s` after a command has appended `n` elements with the given bytes: the bytes stand in the output array,
OUT_COUNT and RESULT count the elements, and nothing else changes but STATUS and ERR_INFO (20_memory R68). -/
def Appended (s t : State) (esize n : Nat) (bytes : List Byte) : Prop :=
  t = { s with
        mem := t.mem
        regs := { s.regs with outCount := s.regs.outCount + BitVec.ofNat 32 n }
        result := s.result + BitVec.ofNat 32 n
        status := t.status
        errInfo := t.errInfo } ∧
    (∀ k (h : k < bytes.length), Memory.read t.mem (outStart s.regs esize + k) = bytes[k]) ∧
    ∀ a, (a < outStart s.regs esize ∨ outStart s.regs esize + bytes.length ≤ a) →
      Memory.read t.mem a = Memory.read s.mem a

/-- The command that led from `s` to `t` ended without an error (10_state R23). -/
def EndedWell (s t : State) : Prop :=
  t.status = { s.status with busy := false, done := true } ∧ t.errInfo = s.errInfo

/-- The command that led from `s` to `t` ended with an error (60_exceptions R272, step 4). -/
def EndedBadly (s t : State) (e : ErrCode) (info : Word) : Prop :=
  t.status = { s.status with busy := false, done := true, err := true, errCode := e } ∧ t.errInfo = info

/-- The block takes the next command request: it is not in reset, not busy, and shows no error (10_state R22). -/
abbrev Ready (s : State) : Prop := s.inReset = false ∧ s.status.busy = false ∧ s.status.err = false

/-- The bytes of a list of words. -/
def bytesOfWords (ws : List Word) : List Byte := ws.flatMap wordBytes

/-! ## Rasters -/

/-- Pixel (x, y) of the image. -/
def pixel (s : State) (x y : Int) : Byte := byteAt s.mem (pixAddr s.regs x y)

/-- Mark (x, y). -/
def mark (s : State) (x y : Int) : Byte := byteAt s.mem (markAddr s.regs x y)

/-! ## DETECT (40_fast_detect) -/

/-- The image bytes DETECT reads: each pixel of the bounded region and its ring. -/
def detectReads (p : Params) (r : ParamRegs) : List Int :=
  (regionCells r).flatMap fun c => ringAddrs p r c.1 c.2

/-- The read footprint that R126 states. -/
def detectRect (r : ParamRegs) : List Int := (detectReadSpans r).flatMap fun u => bytesFrom u.1 u.2

/-- The two edge bytes of every row, where W mod 16 ≠ 0 (R125). -/
def edgeAddrs (r : ParamRegs) : List Int :=
  if r.width.toNat % 16 = 0 then []
  else
    (List.range' r.border.toNat (innerExtent r.height r.border)).flatMap fun (y : Nat) =>
      [markAddr r (r.width.toNat : Int) y, markAddr r ((r.width.toNat : Int) + 1) y]

/-- The marks of the bounded region. -/
def regionMarks (r : ParamRegs) : List Int := (regionCells r).map fun c => markAddr r c.1 c.2

/-- The i-th ring pixel of (x, y). -/
def ringPixel (s : State) (x y : Int) (i : Nat) : Byte :=
  pixel s (x + (s.params.ring.getD i (0, 0)).1) (y + (s.params.ring.getD i (0, 0)).2)

/-- The corner predicate of R122 and R123: nine ring pixels in a row, cyclically, all dark or all light. -/
def Corner (s : State) (x y : Int) : Prop :=
  ∃ st, st < 16 ∧
    ((∀ k, k < 9 → darkBit s.params.fastCmp (darkLevel (pixel s x y) s.regs.fastT.toNat)
        (ringPixel s x y ((st + k) % 16)) = true) ∨
     (∀ k, k < 9 → lightBit s.params.fastCmp (lightLevel (pixel s x y) s.regs.fastT.toNat)
        (ringPixel s x y ((st + k) % 16)) = true))

/-! ## SCORE (41_harris_score) -/

/-- The cells of the bounded region whose mark is not 0. -/
def markedCells (s : State) : List (Nat × Nat) := (regionCells s.regs).filter fun c => mark s c.1 c.2 ≠ 0

/-- The 64 pixels of the patch of (x, y), row by row. -/
def patchOf (s : State) (x y : Nat) : List Byte := (patchAddrs s.params s.regs x y).map (byteAt s.mem)

/-- The image bytes SCORE reads (R148). -/
def scoreReads (s : State) : List Int := (markedCells s).flatMap fun c => patchAddrs s.params s.regs c.1 c.2

/-- The marks SCORE rewrites (R148). -/
def scoreWrites (s : State) : List Int := (markedCells s).map fun c => markAddr s.regs c.1 c.2

/-! ## The suppression walk (42_nms_extract) -/

/-- The marks the walk reads (R166). -/
def walkReads (r : ParamRegs) : List Int := (blockOrigins r).flatMap fun c => windowAddrs r c.1 c.2

/-- The survivors, in the order the walk meets them (R160 to R162). -/
def survivors (s : State) : List Survivor :=
  (blockOrigins s.regs).flatMap fun c =>
    blockSurvivors s.regs ((windowAddrs s.regs c.1 c.2).map (byteAt s.mem)) c.1 c.2

/-- The words of a list of survivors (R165). -/
def wordsOf (vs : List Survivor) : List Word := vs.map Survivor.word

/-- (qx, qy) comes before (px, py) in column-major order (00_scope glossary). -/
def earlier (qx qy px py : Int) : Prop := qx < px ∨ (qx = px ∧ qy < py)

/-- (px, py) and (qx, qy) lie in the same 2×2 block of the walk. -/
def sameBlock (r : ParamRegs) (px py qx qy : Int) : Prop :=
  (px - r.border.toNat) / 2 = (qx - r.border.toNat) / 2 ∧ (py - r.border.toNat) / 2 = (qy - r.border.toNat) / 2

/-- The general form of R162: a cell beats its eight neighbours, strictly in its own block and over a later neighbour. -/
def Dominates (s : State) (px py : Int) : Prop :=
  ∀ dx dy : Int, -1 ≤ dx → dx ≤ 1 → -1 ≤ dy → dy ≤ 1 → ¬(dx = 0 ∧ dy = 0) →
    (mark s (px + dx) (py + dy)).toNat ≤ (mark s px py).toNat ∧
    (sameBlock s.regs px py (px + dx) (py + dy) ∨ earlier px py (px + dx) (py + dy) →
      (mark s (px + dx) (py + dy)).toNat < (mark s px py).toNat)

/-! ## Buckets and the grid (42_nms_extract, 43_feature_grid) -/

/-- Words in ascending order. -/
abbrev Ascending (b : Bucket) : Prop := List.Pairwise (fun u v : Word => u.toNat ≤ v.toNat) b

/-- The survivors of cell (i, j) (R164). -/
def cellSurvivors (r : ParamRegs) (vs : List Survivor) (i j : Nat) : List Survivor :=
  vs.filter fun v =>
    decide ((v.y - r.border.toNat) / 2 ^ r.logBkt.toNat = i) && decide ((v.x - r.border.toNat) / 2 ^ r.logBkt.toNat = j)

/-- A bucket holds the K largest of some words, or all of them if fewer, in ascending order (R168). -/
def HoldsLargest (k : Nat) (ws : List Word) (b : Bucket) : Prop :=
  Ascending b ∧ b.length = min k ws.length ∧ ∃ rest, (b ++ rest).Perm ws ∧ ∀ u ∈ b, ∀ v ∈ rest, v.toNat ≤ u.toNat

/-- Every bucket of the grid's geometry, row by row. -/
def bucketList (g : Grid) : List Bucket := (List.range (g.vb * g.hb)).map (bucketAt g.buckets)

/-- The words of a list of buckets, in order. -/
def flatten (bs : List Bucket) : List Word := bs.flatMap fun b => b

/-- How many entries the first q buckets hold. -/
def entriesBefore (bs : List Bucket) (q : Nat) : Nat := entryCount (bs.take q)

/-- The indices of the entries of one bucket that pass the point test, from entry e on (43_feature_grid R204). -/
def bucketHits (x y r : Int) (start : Word) : Nat → Bucket → List Word
  | _, [] => []
  | e, kp :: rest =>
    (if inArea x y r kp then [start + BitVec.ofNat 32 e] else []) ++ bucketHits x y r start (e + 1) rest

/-- The indices of every stored feature in the area, whatever its cell (R204, R207). -/
def areaHits (s : State) : List Word :=
  (List.range (s.grid.vb * s.grid.hb)).flatMap fun q =>
    bucketHits s.regs.qX.toInt s.regs.qY.toInt s.regs.qR.toInt (s.index.getD q 0) 0 (bucketAt s.grid.buckets q)

/-! ## CENTROID, ATAN2, DESCRIBE -/

/-- Keypoint word k of the input (20_memory R64). -/
def inputWord (s : State) (k : Nat) : Word := wordAt s.mem (s.regs.inBase.toNat + 4 * k)

/-- The bytes of the words with the given numbers of the input array. -/
def inputAddrs (r : ParamRegs) (ks : List Nat) : List Int := ks.flatMap fun k => bytesFrom (r.inBase.toNat + 4 * k) 4

/-- Keypoint k has the margin its probes need (44_orb_centroid R223). -/
abbrev InMargin (s : State) (k : Nat) : Prop :=
  15 ≤ (kpX (inputWord s k)).toNat ∧ (kpX (inputWord s k)).toNat + 16 ≤ s.regs.width.toNat ∧
    15 ≤ (kpY (inputWord s k)).toNat ∧ (kpY (inputWord s k)).toNat + 16 ≤ s.regs.height.toNat

/-- The addresses of the disk of keypoint k. -/
def diskOf (s : State) (k : Nat) : List Int :=
  diskAddrs s.params s.regs (kpX (inputWord s k)).toNat (kpY (inputWord s k)).toNat

/-- The moments of keypoint k (R221), zeros for a padding lane (R222). -/
def laneOf (s : State) (k : Nat) : Word × Word :=
  if k < s.regs.inCount.toNat then momentsOf s.params ((diskOf s k).map (byteAt s.mem)) else (0, 0)

/-- How many groups of four lanes CENTROID makes. -/
def groups (r : ParamRegs) : Nat := (r.inCount.toNat + 3) / 4

/-- The words of the first `n` groups of CENTROID (R222, 30_encoding R91). -/
def centroidWords (s : State) (n : Nat) : List Word :=
  (List.range n).flatMap fun g =>
    (List.range 4).map (fun l => (laneOf s (4 * g + l)).1) ++ (List.range 4).map (fun l => (laneOf s (4 * g + l)).2)

/-- What CENTROID reads for its first `n` keypoints (R224). -/
def centroidReads (s : State) (n : Nat) : List Int :=
  inputAddrs s.regs (List.range n) ++ (List.range n).flatMap (diskOf s)

/-- One moment of R221, written as a double sum over the square that holds the disk. -/
def diskSum (umax : List Nat) (weight : Int → Int → Int) (pix : Int → Int → Byte) : Int :=
  sumOver
    (fun dy : Int =>
      sumOver (fun dx : Int => if dx.natAbs ≤ umax.getD dy.natAbs 0 then weight dx dy * ((pix dx dy).toNat : Int) else 0)
        ((List.range 31).map fun (i : Nat) => (i : Int) - 15))
    ((List.range 31).map fun (i : Nat) => (i : Int) - 15)

/-- The numbers of the input words ATAN2 reads (45_orb_atan2 R239). -/
def atan2Inputs (r : ParamRegs) : List Nat :=
  (List.range r.inCount.toNat).flatMap fun k => [8 * (k / 4) + k % 4, 8 * (k / 4) + 4 + k % 4]

/-- The bytes ATAN2 appends (R237). -/
def atan2Bytes (s : State) : List Byte :=
  (List.range s.regs.inCount.toNat).map fun k =>
    angleBin (inputWord s (8 * (k / 4) + k % 4)).toInt (inputWord s (8 * (k / 4) + 4 + k % 4)).toInt

/-- The two pixel addresses of test j of keypoint k (46_orb_describe R253). -/
def probeAddrs (s : State) (k j : Nat) : Int × Int :=
  let q := probeAt s.params (kpOrient (inputWord s k)).toNat j
  let x : Int := (kpX (inputWord s k)).toNat
  let y : Int := (kpY (inputWord s k)).toNat
  (pixAddr s.regs (x + q.a) (y + q.b), pixAddr s.regs (x + q.c) (y + q.d))

/-- The result of test j of keypoint k. -/
def testOf (s : State) (k j : Nat) : Bool :=
  decide ((byteAt s.mem (probeAddrs s k j).1).toNat < (byteAt s.mem (probeAddrs s k j).2).toNat)

/-- The words of the first `n` keypoints of DESCRIBE (R253, 30_encoding R93). -/
def describeWords (s : State) (n : Nat) : List Word :=
  (List.range n).flatMap fun k =>
    (List.range s.regs.descN.toNat).map fun w => wordOfBits ((List.range 32).map fun j => testOf s k (32 * w + j))

/-- What DESCRIBE reads for its first `n` keypoints (R256). -/
def describeReads (s : State) (n : Nat) : List Int :=
  inputAddrs s.regs (List.range n)
    ++ (List.range n).flatMap fun k =>
        (List.range (32 * s.regs.descN.toNat)).flatMap fun j => [(probeAddrs s k j).1, (probeAddrs s k j).2]

/-! ## The footprints that the rules state (20_memory R67) -/

/-- Keypoint k has its margin and a bin, so that its descriptor is computed (46_orb_describe R253). -/
abbrev Describable (s : State) (k : Nat) : Prop := InMargin s k ∧ (kpOrient (inputWord s k)).toNat < 30

/-- How many elements a command appends that does not stop early (42_nms_extract R166, R173, 43_feature_grid R202, R206,
44_orb_centroid R224, 45_orb_atan2 R239, 46_orb_describe R256). -/
def wholeOutput (s : State) : Instr → Nat
  | .extract => (survivors s).length
  | .extractBkt => (flatten (fillGrid s.regs (survivors s))).length
  | .gridIndex => (flatten s.grid.buckets).length
  | .gridQuery => (areaHits s).length
  | .centroid => 8 * groups s.regs
  | .atan2 => s.regs.inCount.toNat
  | .describe => s.regs.descN.toNat * s.regs.inCount.toNat
  | .detect | .score | .gridBucket | .gridReduce => 0

/-- The read footprint that a command's rule states when the command is accepted; CENTROID's is joined by the disk of each
keypoint that it comes to process (44_orb_centroid R224), and SCORE's mark reads are left out (41_harris_score R148). A
keypoint of DESCRIBE whose bin is no row of the ROM has no pixels here (assumption 4). -/
def statedReads (s : State) : Instr → List Int
  | .detect => detectRect s.regs
  | .score => scoreReads s
  | .extract | .extractBkt | .gridBucket => walkReads s.regs
  | .gridReduce | .gridIndex | .gridQuery => []
  | .centroid => inputAddrs s.regs (List.range s.regs.inCount.toNat)
  | .atan2 => inputAddrs s.regs (atan2Inputs s.regs)
  | .describe =>
    inputAddrs s.regs (List.range s.regs.inCount.toNat)
      ++ ((List.range s.regs.inCount.toNat).filter fun k => decide ((kpOrient (inputWord s k)).toNat < 30)).flatMap fun k =>
        (List.range (32 * s.regs.descN.toNat)).flatMap fun j => [(probeAddrs s k j).1, (probeAddrs s k j).2]

/-- Every mark a command writes that ends without an error. -/
def wholeMarkWrites (s : State) : Instr → List Int
  | .detect => regionMarks s.regs ++ edgeAddrs s.regs
  | .score => scoreWrites s
  | .extract | .extractBkt | .gridBucket | .gridReduce | .gridIndex | .gridQuery | .centroid | .atan2 | .describe => []

/-- The write footprint that a command's rule states: its marks, and every element it would append. -/
def statedWrites (s : State) (i : Instr) : List Int :=
  wholeMarkWrites s i ++
    match elementSize i with
    | none => []
    | some e => outAddrs s.regs e (wholeOutput s i)

/-- The memory whose contents decide a command's stated footprint: the marks, or the input words. -/
def decidingReads (s : State) : Instr → List Int
  | .score => regionMarks s.regs
  | .extract | .extractBkt => walkReads s.regs
  | .describe => inputAddrs s.regs (List.range s.regs.inCount.toNat)
  | .detect | .gridBucket | .gridReduce | .gridIndex | .gridQuery | .centroid | .atan2 => []

/-- Every byte a command reads that ends without an error. -/
def wholeReads (s : State) : Instr → List Int
  | .detect => detectReads s.params s.regs
  | .score => regionMarks s.regs ++ scoreReads s
  | .extract | .extractBkt | .gridBucket => walkReads s.regs
  | .gridReduce | .gridIndex | .gridQuery => []
  | .centroid => centroidReads s s.regs.inCount.toNat
  | .atan2 => inputAddrs s.regs (atan2Inputs s.regs)
  | .describe => describeReads s s.regs.inCount.toNat

/-- The bytes of all the elements a command appends that does not stop early. -/
def wholeBytes (s : State) : Instr → List Byte
  | .extract => bytesOfWords (wordsOf (survivors s))
  | .extractBkt => bytesOfWords (flatten (fillGrid s.regs (survivors s)))
  | .gridIndex => bytesOfWords (flatten s.grid.buckets)
  | .gridQuery => bytesOfWords (areaHits s)
  | .centroid => bytesOfWords (centroidWords s (groups s.regs))
  | .atan2 => atan2Bytes s
  | .describe => bytesOfWords (describeWords s s.regs.inCount.toNat)
  | .detect | .score | .gridBucket | .gridReduce => []

/-- Every keypoint of a command's input can be processed. -/
def GoodInputs (s : State) : Instr → Prop
  | .centroid => ∀ k, k < s.regs.inCount.toNat → InMargin s k
  | .describe => ∀ k, k < s.regs.inCount.toNat → Describable s k
  | .detect | .score | .extract | .extractBkt | .gridBucket | .gridReduce | .gridIndex | .gridQuery | .atan2 => True

/-- What an appending command that OUT_FULL stops has changed beside its elements, STATUS's end bits and ERR_INFO: `s`,
with the grid and index state of EXTRACT_BKT (42_nms_extract R169) and GRID_INDEX (43_feature_grid R202). -/
def beforeFull (i : Instr) (s t : State) : State :=
  match i with
  | .extractBkt =>
    { s with
      status := { s.status with gridValid := false, indexValid := false }
      gridDim := 0
      gridTotal := 0
      grid := t.grid
      freeCount := t.freeCount }
  | .gridIndex => { s with status := { s.status with indexValid := false }, index := t.index }
  | .detect | .score | .extract | .gridBucket | .gridReduce | .gridQuery | .centroid | .atan2 | .describe => s

/-! ## Which bytes a command can ask for (20_memory R66) -/

/-- The address of an image pixel inside [0, W) × [0, H). -/
def IsPixel (r : ParamRegs) (a : Int) : Prop :=
  ∃ x y : Nat, x < r.width.toNat ∧ y < r.height.toNat ∧ a = pixAddr r x y

/-- The address of a mark inside [0, W) × [0, H). -/
def IsMark (r : ParamRegs) (a : Int) : Prop :=
  ∃ x y : Nat, x < r.width.toNat ∧ y < r.height.toNat ∧ a = markAddr r x y

/-- A byte of element e of the array at `base`, the bytes of the element below it all admitted (20_memory R65). -/
def LowestOfElement (p : Params) (base esize e : Nat) (a : Int) : Prop :=
  ∃ j, j < esize ∧ a = ((base + esize * e + j : Nat) : Int) ∧
    ∀ i, i < j → admitted p ((base + esize * e + i : Nat) : Int) = true

/-- A byte of one of the given words of the input array, the lower bytes of the word admitted. -/
def IsInput (p : Params) (r : ParamRegs) (es : List Nat) (a : Int) : Prop :=
  ∃ e ∈ es, LowestOfElement p r.inBase.toNat 4 e a

/-- A byte of a free element of the output array, the lower bytes of the element admitted. -/
def IsOutput (p : Params) (r : ParamRegs) (esize : Nat) (a : Int) : Prop :=
  ∃ e, r.outCount.toNat ≤ e ∧ e < r.outCap.toNat ∧ LowestOfElement p r.outBase.toNat esize e a

/-- The addresses at which BUS can stop a command: one of its pixels or marks, or the lowest refused byte of one of its
words. -/
def MayStopAt (p : Params) (r : ParamRegs) (a : Int) : Instr → Prop
  | .detect => IsPixel r a ∨ IsMark r a ∨ a ∈ edgeAddrs r
  | .score => IsPixel r a ∨ IsMark r a
  | .extract | .extractBkt => IsMark r a ∨ IsOutput p r 4 a
  | .gridBucket => IsMark r a
  | .gridReduce => False
  | .gridIndex | .gridQuery => IsOutput p r 4 a
  | .centroid => IsInput p r (List.range r.inCount.toNat) a ∨ IsPixel r a ∨ IsOutput p r 4 a
  | .atan2 => IsInput p r (atan2Inputs r) a ∨ IsOutput p r 1 a
  | .describe => IsInput p r (List.range r.inCount.toNat) a ∨ IsPixel r a ∨ IsOutput p r 4 a

/-! ## Invariants -/

/-- Memory is in its canonical form. -/
def MemoryOk (s : State) : Prop := Memory.wf s.mem = true

/-- STATUS is legal (10_state R23): the host never sees BUSY = 1 (R43), ERRCODE is 0 exactly while ERR = 0, and an index
is valid only beside a valid grid. -/
def StatusOk (s : State) : Prop :=
  s.status.busy = false ∧ (s.status.err = false ↔ s.status.errCode = .none) ∧
    (s.status.indexValid = true → s.status.gridValid = true)

/-- Bucket (i, j) of the grid keeps the bucket invariants of 10_state R47 and 43_feature_grid R190. -/
def BucketOk (g : Grid) (i j : Nat) (b : Bucket) : Prop :=
  Ascending b ∧ b.length ≤ g.k ∧
    ∀ kp ∈ b,
      (g.border + j * 2 ^ g.logB ≤ (kpX kp).toNat ∧ (kpX kp).toNat < g.border + (j + 1) * 2 ^ g.logB) ∧
      (g.border + i * 2 ^ g.logB ≤ (kpY kp).toNat ∧ (kpY kp).toNat < g.border + (i + 1) * 2 ^ g.logB)

/-- The geometry of a grid is one that GRID_BUCKET accepts (43_feature_grid R191, R192, R194). -/
def GeometryOk (p : Params) (g : Grid) : Prop :=
  g.w ≤ 4096 ∧ g.h ≤ 4096 ∧ 2 ≤ g.border ∧ 1 ≤ g.logB ∧ g.logB ≤ 12 ∧ 1 ≤ g.k ∧ g.k ≤ p.maxK.toNat ∧
    (g.hb, g.vb) = geometry g.w g.h g.border g.logB ∧
    g.hb * g.vb ≤ p.maxBuckets.toNat ∧ g.buckets.length = g.hb * g.vb

/-- The grid and the registers that show it (10_state R40, R41, R47): a valid grid has a legal geometry and legal buckets,
and GRID_DIM and GRID_TOTAL show it; without one they read 0. -/
def GridOk (s : State) : Prop :=
  (s.status.gridValid = true →
    GeometryOk s.params s.grid ∧
    (∀ i j, i < s.grid.vb → j < s.grid.hb → BucketOk s.grid i j (bucketAt s.grid.buckets (i * s.grid.hb + j))) ∧
    s.gridDim = gridDimWord s.grid.hb s.grid.vb ∧
    s.gridTotal = BitVec.ofNat 32 (entryCount s.grid.buckets)) ∧
  (s.status.gridValid = false → s.gridDim = 0 ∧ s.gridTotal = 0)

/-- A valid index gives each bucket's entries consecutive positions (43_feature_grid R203). -/
def IndexOk (s : State) : Prop :=
  s.status.indexValid = true →
    ∃ base : Nat, ∀ q, q < s.grid.vb * s.grid.hb →
      base + entriesBefore s.grid.buckets q < 4294967296 ∧
        s.index.getD q 0 = BitVec.ofNat 32 (base + entriesBefore s.grid.buckets q)

/-! ## What no command can observe (70_reset_and_hazards R300) -/

/-- Two states that software cannot tell apart by running commands: they differ at most in grid storage while
GRID_VALID = 0, in index-table slots of no bucket or while INDEX_VALID = 0, and in the count of free values. -/
def Alike (s s' : State) : Prop :=
  s' = { s with grid := s'.grid, index := s'.index, freeCount := s'.freeCount } ∧
    (s.status.gridValid = true → s'.grid = s.grid) ∧
    (s.status.gridValid = true → s.status.indexValid = true →
      ∀ q, q < s.grid.vb * s.grid.hb → s'.index.getD q 0 = s.index.getD q 0)

/-- Two outcomes that software cannot tell apart. -/
def OutcomeAlike : Host.Outcome State Fault Refusal → Host.Outcome State Fault Refusal → Prop
  | .next t, .next t' => Alike t t'
  | .fault f, .fault f' => f = f'
  | .refused r, .refused r' => r = r'
  | _, _ => False

end Sys2Proof.Safety
end

