-- ==== Sys2Proof/WellFormed.lean ====
section
/-! DEFINITION. What is well formed: a command word (spec 30_encoding R80, R82) and the implementation parameters
(93_implementation_defined §2). A command has no operand, so every term of `Instr` is well formed. -/

namespace Sys2Proof

/-- Every command is well formed: it has no operand (30_encoding R80). -/
def Instr.wf : Instr → Bool
  | .detect | .score | .extract | .extractBkt | .gridBucket | .gridReduce
  | .gridIndex | .gridQuery | .centroid | .atan2 | .describe => true

/-- RSVD = 0 and OP is one of 0x01 .. 0x0B (R80, R82). -/
def commandWordWf (v : Word) : Bool :=
  decide (rsvdField v = 0) && decide (1 ≤ (opField v).toNat) && decide ((opField v).toNat ≤ 0x0B)

/-- `lo ≤ v ≤ hi`. -/
def between (lo hi v : Int) : Bool := decide (lo ≤ v) && decide (v ≤ hi)

/-- `RING`: 16 offsets in [−3, 3]². -/
def ringWf (ring : List (Int × Int)) : Bool :=
  decide (ring.length = 16) && ring.all fun d => between (-3) 3 d.1 && between (-3) 3 d.2

/-- `DISK_UMAX`: 16 half-widths in [0, 15], U[0] = 15. -/
def diskWf (umax : List Nat) : Bool :=
  decide (umax.length = 16) && umax.all (fun u => decide (u ≤ 15)) && decide (umax.getD 0 0 = 15)

/-- One entry of `ROT_PATTERN`, in [−15, 15]^4. -/
def probeWf (q : Probe) : Bool :=
  between (-15) 15 q.a && between (-15) 15 q.b && between (-15) 15 q.c && between (-15) 15 q.d

/-- `ROT_PATTERN`: 30 rows of 256 entries. -/
def romWf (rom : List (List Probe)) : Bool :=
  decide (rom.length = 30) && rom.all fun row => decide (row.length = 256) && row.all probeWf

/-- The admissible values of the parameters (93_implementation_defined §2). -/
def Params.wf (p : Params) : Bool :=
  decide (p.maxK ≠ 0) && decide (p.maxBuckets ≠ 0) && ringWf p.ring
    && (decide (p.harrisWinLo = -3) || decide (p.harrisWinLo = -2)) && diskWf p.diskUmax && romWf p.rotPattern

end Sys2Proof
end

