-- ==== Sys2Proof/Certificates/Slice0/Obligations.lean ====
section
/-! DEFINITION. The statements for the provers. Each docstring names the rules of spec/ it formalises. -/

open Sys2Proof Sys2Proof.Machine Sys2Proof.Safety

/-! ## Command words -/

/-- The opcode map of 30_encoding R81, word by word. -/
def Obligations.CommandWordsDecodeToTheirCommands : Prop :=
  decode 0x00000001 = .ok .detect ∧ decode 0x00000002 = .ok .score ∧ decode 0x00000003 = .ok .extract ∧
  decode 0x00000004 = .ok .extractBkt ∧ decode 0x00000005 = .ok .gridBucket ∧
  decode 0x00000006 = .ok .gridReduce ∧ decode 0x00000007 = .ok .gridIndex ∧
  decode 0x00000008 = .ok .gridQuery ∧ decode 0x00000009 = .ok .centroid ∧ decode 0x0000000A = .ok .atan2 ∧
  decode 0x0000000B = .ok .describe

/-- Decoding and encoding agree on every word and every command (30_encoding R80 to R82). -/
def Obligations.DecodingInvertsEncoding : Prop :=
  ∀ (v : Word) (i : Instr), decode v = .ok i ↔ v = encode i

/-- BAD_OPCODE (60_exceptions R271, 30_encoding R82): a word with v[31:8] ≠ 0 or an unassigned opcode is accepted, and
raises BAD_OPCODE with no other effect. -/
def Obligations.RejectedWordsRaiseBadOpcode : Prop :=
  ∀ (s : State) (v : Word) (rest : List HostEvent),
    Ready s → s.inputs = hostWr .cmd v :: rest →
    (v.toNat / 256 ≠ 0 ∨ v.toNat % 256 = 0 ∨ 0x0B < v.toNat % 256) →
    step s = .next { s with
      inputs := rest
      cmd := v
      status := { s.status with busy := false, done := true, err := true, errCode := .badOpcode }
      errInfo := v
      result := 0 }

/-! ## Host accesses -/

/-- A step runs the decoded command on the accepted state (00_scope R6, 10_state R22). -/
def Obligations.StepRunsTheDecodedCommand : Prop :=
  ∀ (s : State) (v : Word) (i : Instr) (rest : List HostEvent),
    Ready s → s.inputs = hostWr .cmd v :: rest → decode v = .ok i →
    step s = exec i { s with
      inputs := rest
      cmd := v
      status := { s.status with done := false, busy := true }
      result := 0
      errInfo := 0 }

/-- Dropped and ignored accesses (10_state R21, R22, R43): a command request while ERR = 1, and every register write while
BUSY = 1, is dropped and sets WDROP; a write to a read-only register or a reserved offset, and an access that is not 32
bits wide or not 4-aligned, has no effect; a read of a reserved or misaligned offset returns 0. -/
def Obligations.DroppedAndIgnoredRegisterAccesses : Prop :=
  ∀ (s : State) (rest : List HostEvent), s.inReset = false →
    (∀ v, s.status.err = true → s.inputs = hostWr .cmd v :: rest →
      step s = .next { s with inputs := rest, status := { s.status with wdrop := true } }) ∧
    (∀ r v, s.status.busy = true → s.inputs = hostWr r v :: rest →
      step s = .next { s with inputs := rest, status := { s.status with wdrop := true } }) ∧
    (∀ r v, s.status.busy = false → s.inputs = hostWr r v :: rest →
      r ∈ [RegName.errInfo, .result, .gridDim, .gridTotal, .cfgMaxK, .cfgMaxBuckets] →
      step s = .next { s with inputs := rest }) ∧
    (∀ width offset v, s.status.busy = false →
      (width ≠ AccessWidth.w32 ∨ offset.toNat % 4 ≠ 0 ∨ 0x7C ≤ offset.toNat) →
      (s.inputs = .regWrite width offset v :: rest → step s = .next { s with inputs := rest }) ∧
      (s.inputs = .regRead width offset :: rest → step s = .next { s with inputs := rest, readData := 0 }))

/-- Register reads (10_state R21 to R25, R40 to R42, R44). -/
def Obligations.RegisterReadsShowTheState : Prop :=
  ∀ (s : State) (offset : BitVec 8) (rest : List HostEvent) (v : Word),
    s.inReset = false → s.status.busy = false → s.inputs = .regRead .w32 offset :: rest →
    (offset = 0x00 ∧ v = s.cmd ∨ offset = 0x04 ∧ v = s.status.word ∨ offset = 0x08 ∧ v = s.errInfo ∨
     offset = 0x0C ∧ v = s.result ∨ offset = 0x6C ∧ v = s.gridDim ∨ offset = 0x70 ∧ v = s.gridTotal ∨
     offset = 0x74 ∧ v = s.params.maxK ∨ offset = 0x78 ∧ v = s.params.maxBuckets ∨
     ∃ p : ParamReg, offset = p.offset ∧ v = s.regs.get p) →
    step s = .next { s with inputs := rest, readData := v }

/-- The STATUS register (10_state R23): where each field stands, the number of each error code (60_exceptions R270), what
reads 0, and what a write clears. -/
def Obligations.StatusRegisterFieldsAndClears : Prop :=
  (∀ st : Status,
    st.word.getLsbD 0 = st.busy ∧ st.word.getLsbD 1 = st.done ∧ st.word.getLsbD 2 = st.err ∧
    st.word.getLsbD 3 = st.wdrop ∧ st.word.extractLsb' 4 4 = 0 ∧ st.word.extractLsb' 8 4 = st.errCode.code ∧
    st.word.extractLsb' 12 4 = 0 ∧ st.word.getLsbD 16 = st.gridValid ∧ st.word.getLsbD 17 = st.indexValid ∧
    st.word.extractLsb' 18 14 = 0) ∧
  (ErrCode.none.code = 0 ∧ ErrCode.badOpcode.code = 1 ∧ ErrCode.badParam.code = 2 ∧ ErrCode.kpBounds.code = 3 ∧
    ErrCode.outFull.code = 4 ∧ ErrCode.noGrid.code = 5 ∧ ErrCode.badBin.code = 6 ∧ ErrCode.bus.code = 7) ∧
  ∀ (s : State) (v : Word) (rest : List HostEvent),
    s.inReset = false → s.status.busy = false → s.inputs = hostWr .status v :: rest →
    step s = .next { s with
      inputs := rest
      status := { s.status with
        done := s.status.done && !v.getLsbD 1
        err := s.status.err && !v.getLsbD 2
        wdrop := s.status.wdrop && !v.getLsbD 3
        errCode := if v.getLsbD 2 then .none else s.status.errCode } }

/-- The return from an error (60_exceptions R279): writing 0x00000006 to STATUS clears ERR, DONE and ERRCODE, keeps
ERR_INFO, and the next command request is accepted. -/
def Obligations.ClearingErrLetsTheNextCommandRun : Prop :=
  ∀ (s : State) (i : Instr) (rest : List HostEvent),
    s.inReset = false → s.status.busy = false → s.inputs = hostWr .status 0x00000006 :: hostCmd i :: rest →
    ∃ t, step s = .next t ∧ t.status.err = false ∧ t.status.done = false ∧ t.status.errCode = .none ∧
      t.errInfo = s.errInfo ∧
      step t = exec i { s with
        inputs := rest
        cmd := encode i
        status := { s.status with done := false, busy := true, err := false, errCode := .none }
        result := 0
        errInfo := 0 }

/-- Parameter registers (10_state R44): a written value is read back unchanged, and no other register changes. -/
def Obligations.ParameterRegistersKeepWhatIsWritten : Prop :=
  ∀ (s : State) (p : ParamReg) (v : Word) (rest : List HostEvent),
    s.inReset = false → s.status.busy = false →
    s.inputs = hostWr (.param p) v :: hostRd (.param p) :: rest →
    ∃ t, step s = .next t ∧ t = { s with regs := t.regs, inputs := hostRd (.param p) :: rest } ∧
      (∀ q, q ≠ p → t.regs.get q = s.regs.get q) ∧ t.regs.get p = v ∧
      step t = .next { t with inputs := rest, readData := v }

/-- Host memory words and bytes (20_memory R60, R62, 30_encoding R95): a word is little-endian, a byte lies at its address,
nothing else of memory changes, and a read gives what memory holds. That a word access may be unaligned, and that both
reach an address that ADMIT refuses, is the model's choice (assumption 12, DESIGN CHOICE); so is that a byte read gives the
byte extended with zeros (assumption 10, DESIGN CHOICE); that all of it holds while reset is asserted is deduced
(assumption 13). -/
def Obligations.HostMemoryWordsAreLittleEndian : Prop :=
  (∀ (s : State) (a v : Word) (rest : List HostEvent),
    s.status.busy = false → a.toNat + 4 ≤ 4294967296 →
    s.inputs = .memWriteWord a v :: .memReadWord a :: rest →
    ∃ t, step s = .next t ∧ t = { s with mem := t.mem, inputs := .memReadWord a :: rest } ∧
      (∀ k, k < 4 → Memory.read t.mem (a.toNat + k) = v.extractLsb' (8 * k) 8) ∧
      (∀ b, b < a.toNat ∨ a.toNat + 4 ≤ b → Memory.read t.mem b = Memory.read s.mem b) ∧
      step t = .next { t with inputs := rest, readData := v }) ∧
  (∀ (s : State) (a : Word) (v : Byte) (rest : List HostEvent),
    s.status.busy = false → s.inputs = .memWriteByte a v :: .memReadByte a :: rest →
    ∃ t, step s = .next t ∧ t = { s with mem := t.mem, inputs := .memReadByte a :: rest } ∧
      Memory.read t.mem a.toNat = v ∧
      (∀ b, b ≠ a.toNat → Memory.read t.mem b = Memory.read s.mem b) ∧
      step t = .next { t with inputs := rest, readData := v.setWidth 32 }) ∧
  ∀ (s : State) (a : Word) (rest : List HostEvent), s.status.busy = false →
    (s.inputs = .memReadByte a :: rest →
      step s = .next { s with inputs := rest, readData := (byteAt s.mem a.toNat).setWidth 32 }) ∧
    (a.toNat + 4 ≤ 4294967296 → s.inputs = .memReadWord a :: rest →
      step s = .next { s with inputs := rest, readData := wordAt s.mem a.toNat })

/-! ## Reset -/

/-- The reset event (70_reset_and_hazards R300): asserting the input puts the block in reset, memory unchanged; while it
is asserted every register read returns 0 and every register write has no effect; its release gives the table of R300,
memory unchanged. That no other field changes before the release is assumption 13. -/
def Obligations.ResetEvent : Prop :=
  (∀ (s : State) (rest : List HostEvent), s.inputs = .resetAssert :: rest →
    step s = .next { s with inputs := rest, inReset := true }) ∧
  ∀ (s : State) (rest : List HostEvent), s.inReset = true →
    (∀ width offset, s.inputs = .regRead width offset :: rest →
      step s = .next { s with inputs := rest, readData := 0 }) ∧
    (∀ width offset v, s.inputs = .regWrite width offset v :: rest → step s = .next { s with inputs := rest }) ∧
    (s.inputs = .resetRelease :: rest →
      ∃ t, step s = .next t ∧ t.inReset = false ∧ t.cmd = 0 ∧ t.status.word = 0 ∧ t.errInfo = 0 ∧ t.result = 0 ∧
        (∀ p, t.regs.get p = 0) ∧ t.gridDim = 0 ∧ t.gridTotal = 0 ∧ t.params = s.params ∧ t.mem = s.mem)

/-- Reset during a command (70_reset_and_hazards R301, 93 U7): every byte of memory holds its old value or the value the
command would have left there, and the block is in reset. -/
def Obligations.ResetDuringACommandTearsItsWrites : Prop :=
  ∀ (s t : State) (v : Word) (rest : List HostEvent),
    Ready s → s.inputs = .resetDuringCommand v :: rest →
    runWord v { s with
      inputs := rest
      cmd := v
      status := { s.status with done := false, busy := true }
      result := 0
      errInfo := 0 } = .next t →
    ∃ u, step s = .next u ∧ u.inReset = true ∧ u.inputs = rest ∧ u.params = s.params ∧
      ∀ a, Memory.read u.mem a = Memory.read s.mem a ∨ Memory.read u.mem a = Memory.read t.mem a

/-! ## Invariants -/

/-- The invariants hold right after reset (70_reset_and_hazards R300). -/
def Obligations.ResetHasTheInvariants : Prop :=
  MemoryOk State.reset ∧ StatusOk State.reset ∧ GridOk State.reset ∧ IndexOk State.reset

/-- Every step keeps memory in its canonical form. -/
def Obligations.StepKeepsMemoryCanonical : Prop :=
  ∀ s t : State, MemoryOk s → step s = .next t → MemoryOk t

/-- Every step keeps STATUS legal (10_state R23, R43, R48): the host never observes BUSY = 1, ERRCODE is 0 exactly while
ERR = 0, and INDEX_VALID needs GRID_VALID. -/
def Obligations.StepKeepsStatusLegal : Prop :=
  ∀ s t : State, StatusOk s → step s = .next t → StatusOk t

/-- Every step keeps the grid's invariants (10_state R40, R41, R47; 43_feature_grid R190, R191). That both HB and VB
of an empty region are 0 is assumption 22. -/
def Obligations.StepKeepsTheGridLegal : Prop :=
  ∀ s t : State, GridOk s → step s = .next t → GridOk t

/-- Every step keeps the index table's invariant (43_feature_grid R203). -/
def Obligations.StepKeepsTheIndexLegal : Prop :=
  ∀ s t : State, IndexOk s → step s = .next t → IndexOk t

/-- No step changes the implementation parameters, the pattern ROM among them (10_state R42, R49). -/
def Obligations.StepKeepsTheParameters : Prop :=
  ∀ s t : State, step s = .next t → t.params = s.params

/-! ## What every command does and leaves -/

/-- No command is refused, and one faults only on a footprint overlap; the four grid commands never do (20_memory R67,
43_feature_grid R193, R202, R206; the fault is assumption 4). -/
def Obligations.CommandsEndOrFaultOnOverlap : Prop :=
  (∀ (i : Instr) (s : State), (∃ t, exec i s = .next t) ∨ exec i s = .fault .footprintOverlap) ∧
  ∀ (i : Instr) (s : State), isGridCommand i = true → ∃ t, exec i s = .next t

/-- Every command ends with BUSY = 0 and DONE = 1, without an error or with one, and changes no parameter register but
OUT_COUNT (10_state R23, 30_encoding R83, 60_exceptions R272). -/
def Obligations.EveryCommandEndsIdle : Prop :=
  ∀ (i : Instr) (s t : State), exec i s = .next t →
    t.status.busy = false ∧ t.status.done = true ∧ t.status.wdrop = s.status.wdrop ∧
    (t.status.err = s.status.err ∧ t.status.errCode = s.status.errCode ∧ t.errInfo = s.errInfo ∨
      t.status.err = true ∧ t.status.errCode ≠ .none) ∧
    (∀ p, p ≠ .outCount → t.regs.get p = s.regs.get p) ∧
    t.cmd = s.cmd ∧ t.params = s.params ∧ t.inReset = s.inReset ∧ t.inputs = s.inputs ∧ t.readData = s.readData

/-- DETECT and SCORE write no register but STATUS and ERR_INFO, and no byte but the marks of the bounded region and, for
DETECT, the edge bytes; GRID_BUCKET and GRID_REDUCE write no memory and no parameter register (30_encoding R83,
40_fast_detect R124 to R126, 41_harris_score R147, R148, 43_feature_grid R193, R197). -/
def Obligations.MarkAndGridCommandsFrame : Prop :=
  (∀ (i : Instr) (s t : State), i = .detect ∨ i = .score → exec i s = .next t →
    t = { s with mem := t.mem, status := t.status, errInfo := t.errInfo } ∧
    t.status.gridValid = s.status.gridValid ∧ t.status.indexValid = s.status.indexValid) ∧
  (∀ s t : State, exec .detect s = .next t →
    ∀ a : Nat, (a : Int) ∉ regionMarks s.regs ++ edgeAddrs s.regs → Memory.read t.mem a = Memory.read s.mem a) ∧
  (∀ s t : State, exec .score s = .next t →
    ∀ a : Nat, (a : Int) ∉ scoreWrites s → Memory.read t.mem a = Memory.read s.mem a) ∧
  (∀ (i : Instr) (s t : State), i = .gridBucket ∨ i = .gridReduce → exec i s = .next t →
    t.mem = s.mem ∧ t.regs = s.regs)

/-- A command that appends, however it ends, has appended some n whole elements: OUT_COUNT and RESULT count them, they fit
the array, and no byte outside them changes (10_state R25, R36, 20_memory R68, 60_exceptions R272). -/
def Obligations.AppendingCommandsFrame : Prop :=
  ∀ (i : Instr) (e : Nat) (s t : State), elementSize i = some e → exec i s = .next t →
    ∃ n : Nat, (n = 0 ∨ s.regs.outCount.toNat + n ≤ s.regs.outCap.toNat) ∧
      t.regs = { s.regs with outCount := s.regs.outCount + BitVec.ofNat 32 n } ∧
      t.result = s.result + BitVec.ofNat 32 n ∧
      ∀ a, (a < outStart s.regs e ∨ outStart s.regs e + e * n ≤ a) → Memory.read t.mem a = Memory.read s.mem a

/-- What each command leaves of the grid and the index, however it ends (30_encoding R83, 42_nms_extract R165, R169,
43_feature_grid R192, R197, R201, R204); the four grid commands set GRID_TOTAL to the count (10_state R41; which commands
these are is assumption 17). -/
def Obligations.GridStateFrame : Prop :=
  ∀ (i : Instr) (s t : State), exec i s = .next t →
    (i ∈ [Instr.detect, .score, .extract, .centroid, .atan2, .describe] →
      t.grid = s.grid ∧ t.index = s.index ∧ t.gridDim = s.gridDim ∧ t.gridTotal = s.gridTotal ∧
      t.status.gridValid = s.status.gridValid ∧ t.status.indexValid = s.status.indexValid) ∧
    (i = .gridQuery →
      t.grid = s.grid ∧ t.index = s.index ∧ t.gridDim = s.gridDim ∧
      t.status.gridValid = s.status.gridValid ∧ t.status.indexValid = s.status.indexValid) ∧
    (i = .gridIndex → t.grid = s.grid ∧ t.gridDim = s.gridDim ∧ t.status.gridValid = s.status.gridValid) ∧
    (i = .gridReduce →
      t.grid = { s.grid with buckets := t.grid.buckets } ∧ t.index = s.index ∧ t.gridDim = s.gridDim ∧
      t.status.gridValid = s.status.gridValid) ∧
    (i = .gridBucket ∨ i = .extractBkt → t.index = s.index) ∧
    (isGridCommand i = true →
      t.gridTotal = if t.status.gridValid then BitVec.ofNat 32 (entryCount t.grid.buckets) else 0)

/-! ## Errors -/

/-- BAD_PARAM (60_exceptions R273, R288): the first failing check of the command's list raises it with that check's
ERR_INFO, and the command has no other effect. That the
bucket numbers in the checks are both 0 for an empty region is assumption 22. -/
def Obligations.FailedParameterCheckRaisesBadParam : Prop :=
  ∀ (i : Instr) (s : State) (info : Word),
    missingGrid s i = none → firstFailed (paramChecks s.params s.regs i) = some info →
    exec i s = .next { s with
      status := { s.status with busy := false, done := true, err := true, errCode := .badParam }
      errInfo := info
      gridTotal :=
        if isGridCommand i then
          (if s.status.gridValid then BitVec.ofNat 32 (entryCount s.grid.buckets) else 0)
        else s.gridTotal }

/-- NO_GRID (60_exceptions R277): GRID_REDUCE and GRID_INDEX without a valid grid, GRID_QUERY without a valid grid (0) or
without a valid index (1), before any other check. -/
def Obligations.MissingGridRaisesNoGrid : Prop :=
  ∀ s : State,
    (∀ i, i = .gridReduce ∨ i = .gridIndex ∨ i = .gridQuery → s.status.gridValid = false →
      exec i s = .next { s with
        status := { s.status with busy := false, done := true, err := true, errCode := .noGrid }
        errInfo := 0
        gridTotal := 0 }) ∧
    (s.status.gridValid = true → s.status.indexValid = false →
      exec .gridQuery s = .next { s with
        status := { s.status with busy := false, done := true, err := true, errCode := .noGrid }
        errInfo := 1
        gridTotal := BitVec.ofNat 32 (entryCount s.grid.buckets) })

/-- BUS (20_memory R65, R66, 60_exceptions R276, 93 U10): ERR_INFO is, mod 2^32, an address that the platform refuses and
that is one of the command's own: a pixel or mark inside the raster (40_fast_detect R126, 41_harris_score R148,
42_nms_extract R166, 44_orb_centroid R223, 46_orb_describe R255), an edge byte of DETECT, or the lowest refused byte of an
input word or of a free output element. A command that no other error can stop, and that reads, marks or appends a refused
byte, ends with BUS (where its footprints do not overlap). A command that ends without an error had every byte it reads,
and every mark it writes, admitted; and however it ends, every byte of the elements it has appended. -/
def Obligations.BusReportsARefusedAddress : Prop :=
  (∀ (i : Instr) (s t : State), s.params.wf = true → s.status.err = false → exec i s = .next t →
    t.status.err = true → t.status.errCode = .bus →
    ∃ a : Int, admitted s.params a = false ∧ MayStopAt s.params s.regs a i ∧ t.errInfo = BitVec.ofInt 32 a) ∧
  (∀ (i : Instr) (s t : State) (a : Int),
    Legal i s → missingGrid s i = none → (isGridCommand i = true → GridOk s) → GoodInputs s i →
    s.regs.outCount.toNat + wholeOutput s i ≤ s.regs.outCap.toNat →
    a ∈ wholeReads s i ++ statedWrites s i → admitted s.params a = false → exec i s = .next t →
    t.status.err = true ∧ t.status.errCode = .bus) ∧
  (∀ (i : Instr) (s t : State), s.status.err = false → exec i s = .next t → t.status.err = false →
    AllAdmitted s.params (wholeReads s i ++ wholeMarkWrites s i)) ∧
  ∀ (i : Instr) (e n : Nat) (s t : State), elementSize i = some e → exec i s = .next t →
    t.regs.outCount.toNat = s.regs.outCount.toNat + n → AllAdmitted s.params (outAddrs s.regs e n)

/-- The errors each command can raise (60_exceptions R288). -/
def Obligations.CommandsRaiseOnlyTheirErrors : Prop :=
  ∀ (i : Instr) (s t : State), s.status.err = false → exec i s = .next t → t.status.err = true →
    t.status.errCode ∈ match i with
      | .detect | .score | .gridBucket => [ErrCode.badParam, .bus]
      | .extract | .extractBkt | .atan2 => [.badParam, .bus, .outFull]
      | .gridReduce => [.noGrid, .badParam]
      | .gridIndex | .gridQuery => [.noGrid, .badParam, .outFull, .bus]
      | .centroid => [.badParam, .bus, .kpBounds, .outFull]
      | .describe => [.badParam, .bus, .kpBounds, .badBin, .outFull]

/-- A refused mark read during GRID_BUCKET leaves no grid (43_feature_grid R194), and so does any end of EXTRACT_BKT past
its parameter checks (42_nms_extract R169). -/
def Obligations.LostGridsReadAsNoGrid : Prop :=
  ∀ s t : State, s.status.err = false →
    (exec .gridBucket s = .next t → t.status.err = true → t.status.errCode = .bus →
      t.status.gridValid = false ∧ t.status.indexValid = false ∧ t.gridDim = 0 ∧ t.gridTotal = 0) ∧
    (Legal .extractBkt s → exec .extractBkt s = .next t →
      t.status.gridValid = false ∧ t.status.indexValid = false ∧ t.gridDim = 0 ∧ t.gridTotal = 0)

/-- OUT_FULL (20_memory R68, 42_nms_extract R167, 43_feature_grid R202, R206, 60_exceptions R275): an appending command
with more elements than room appends the first of them, as many as fit, and raises OUT_FULL with ERR_INFO = OUT_COUNT;
GRID_INDEX then leaves INDEX_VALID = 0. The elements that do not fit count in its write footprint too (R166, R173, R224,
R239, R256). -/
def Obligations.CommandsStopWhenTheOutputIsFull : Prop :=
  ∀ (i : Instr) (e n : Nat) (s : State), elementSize i = some e →
    missingGrid s i = none → Legal i s → (isGridCommand i = true → GridOk s) → GoodInputs s i →
    AllAdmitted s.params (wholeReads s i) →
    s.regs.outCount.toNat + n = s.regs.outCap.toNat → n < wholeOutput s i →
    AllAdmitted s.params (outAddrs s.regs e n) → Apart (wholeReads s i) (statedWrites s i) →
    ∃ t, exec i s = .next t ∧
      Appended (beforeFull i s t) t e n ((wholeBytes s i).take (e * n)) ∧
      EndedBadly (beforeFull i s t) t .outFull s.regs.outCap

/-- Overlapping footprints (20_memory R67, R314, 93 U5; 40_fast_detect R126, 41_harris_score R148, 42_nms_extract R166,
R173, 44_orb_centroid R224, 45_orb_atan2 R239, 46_orb_describe R256): where a byte lies in both footprints that a command's
rule states, and the command passes its checks, it faults, whatever else would end it; for CENTROID also where the byte lies
in the disk of a keypoint that it comes to process. The fault, and what the stated footprints are where the rules leave it
open, is assumption 4. -/
def Obligations.OverlappingFootprintsFault : Prop :=
  (∀ (i : Instr) (s : State) (a : Int),
    Legal i s → AllAdmitted s.params (decidingReads s i) → a ∈ statedReads s i → a ∈ statedWrites s i →
    exec i s = .fault .footprintOverlap) ∧
  ∀ (s : State) (k : Nat) (a : Int),
    Legal .centroid s → k < s.regs.inCount.toNat → (∀ j, j ≤ k → InMargin s j) →
    AllAdmitted s.params (centroidReads s k ++ inputAddrs s.regs [k]) → Room s 4 (8 * (k / 4)) →
    a ∈ diskOf s k → a ∈ statedWrites s .centroid →
    exec .centroid s = .fault .footprintOverlap

/-- KP_BOUNDS of CENTROID (44_orb_centroid R223, R225, 60_exceptions R274): keypoint k is the first without its margin; the
groups before its own are appended, none of its own, and its pixels are not read. -/
def Obligations.CentroidStopsAtABadKeypoint : Prop :=
  ∀ (s : State) (k : Nat),
    Legal .centroid s → k < s.regs.inCount.toNat → (∀ j, j < k → InMargin s j) → ¬ InMargin s k →
    AllAdmitted s.params (centroidReads s k ++ inputAddrs s.regs [k]) → Room s 4 (8 * (k / 4)) →
    Apart (statedReads s .centroid ++ centroidReads s k) (statedWrites s .centroid) →
    ∃ t, exec .centroid s = .next t ∧
      Appended s t 4 (8 * (k / 4)) (bytesOfWords (centroidWords s (k / 4))) ∧
      EndedBadly s t .kpBounds (BitVec.ofNat 32 k)

/-- KP_BOUNDS and BAD_BIN of DESCRIBE (46_orb_describe R253, R257, 60_exceptions R274): keypoint k is the first without its
margin, or with an orientation field of 30 or more; the descriptors before it are appended and its pixels are not read. The
pixels of every keypoint count in the read footprint (R256), but for an orientation field of 30 or more, which has no row of
the ROM and so no pixels: assumption 4 (DEDUCED). -/
def Obligations.DescribeStopsAtABadKeypoint : Prop :=
  ∀ (s : State) (k : Nat),
    romWf s.params.rotPattern = true → Legal .describe s → k < s.regs.inCount.toNat →
    (∀ j, j < k → InMargin s j ∧ (kpOrient (inputWord s j)).toNat < 30) →
    AllAdmitted s.params (describeReads s k ++ inputAddrs s.regs [k]) →
    Room s 4 (s.regs.descN.toNat * k) → Apart (statedReads s .describe) (statedWrites s .describe) →
    (¬ InMargin s k →
      ∃ t, exec .describe s = .next t ∧
        Appended s t 4 (s.regs.descN.toNat * k) (bytesOfWords (describeWords s k)) ∧
        EndedBadly s t .kpBounds (BitVec.ofNat 32 k)) ∧
    (InMargin s k → 30 ≤ (kpOrient (inputWord s k)).toNat →
      ∃ t, exec .describe s = .next t ∧
        Appended s t 4 (s.regs.descN.toNat * k) (bytesOfWords (describeWords s k)) ∧
        EndedBadly s t .badBin (BitVec.ofNat 32 k))

/-! ## Each command completes, with the result its rule gives -/

/-- DETECT (40_fast_detect R122 to R126): every mark of the bounded region is 0xFF for a corner and 0x00 otherwise, the
edge bytes are 0x00, and nothing else changes. -/
def Obligations.DetectMarksTheCorners : Prop :=
  ∀ s : State,
    ringWf s.params.ring = true → Legal .detect s →
    AllAdmitted s.params (detectReads s.params s.regs ++ regionMarks s.regs ++ edgeAddrs s.regs) →
    Apart (detectRect s.regs) (regionMarks s.regs ++ edgeAddrs s.regs) →
    ∃ t, exec .detect s = .next t ∧
      t = { s with mem := t.mem, status := { s.status with busy := false, done := true } } ∧
      (∀ c ∈ regionCells s.regs,
        (Corner s c.1 c.2 → mark t c.1 c.2 = 0xFF) ∧ (¬ Corner s c.1 c.2 → mark t c.1 c.2 = 0x00)) ∧
      (∀ a ∈ edgeAddrs s.regs, byteAt t.mem a = 0x00) ∧
      (∀ a : Nat, (a : Int) ∉ regionMarks s.regs ++ edgeAddrs s.regs → Memory.read t.mem a = Memory.read s.mem a)

/-- SCORE (41_harris_score R145, R147): every mark of the bounded region that is not 0 becomes the score of its patch,
and nothing else changes. -/
def Obligations.ScoreRewritesTheMarks : Prop :=
  ∀ s : State,
    Legal .score s →
    AllAdmitted s.params (regionMarks s.regs ++ scoreReads s) → Apart (scoreReads s) (scoreWrites s) →
    ∃ t, exec .score s = .next t ∧
      t = { s with mem := t.mem, status := { s.status with busy := false, done := true } } ∧
      (∀ c ∈ markedCells s,
        let score := patchScore s.params.sobelGrad (patchOf s c.1 c.2)
        mark t c.1 c.2 = if score ≤ s.regs.harrisT.toInt then 0 else minifloat s.params.minifloatBias score) ∧
      (∀ a : Nat, (a : Int) ∉ scoreWrites s → Memory.read t.mem a = Memory.read s.mem a)

/-- EXTRACT (42_nms_extract R165): every survivor's word is appended, in the order of the walk. -/
def Obligations.ExtractAppendsTheSurvivors : Prop :=
  ∀ s : State,
    Legal .extract s → AllAdmitted s.params (walkReads s.regs) → Room s 4 (survivors s).length →
    Apart (walkReads s.regs) (outAddrs s.regs 4 (survivors s).length) →
    ∃ t, exec .extract s = .next t ∧
      Appended s t 4 (survivors s).length (bytesOfWords (wordsOf (survivors s))) ∧ EndedWell s t

/-- EXTRACT_BKT (42_nms_extract R169, R170): the words appended are, bucket by bucket, those of the grid that the same
survivors fill, which is what GRID_BUCKET and then GRID_INDEX would append; no grid is left. -/
def Obligations.ExtractBktAppendsTheFilledGrid : Prop :=
  ∀ s : State,
    Legal .extractBkt s → AllAdmitted s.params (walkReads s.regs) →
    Room s 4 (flatten (fillGrid s.regs (survivors s))).length →
    Apart (walkReads s.regs) (outAddrs s.regs 4 (flatten (fillGrid s.regs (survivors s))).length) →
    ∃ t, exec .extractBkt s = .next t ∧
      Appended
        { s with
          gridDim := 0
          gridTotal := 0
          grid := t.grid
          freeCount := t.freeCount }
        t 4 (flatten (fillGrid s.regs (survivors s))).length
        (bytesOfWords (flatten (fillGrid s.regs (survivors s)))) ∧
      t.status = { s.status with gridValid := false, indexValid := false, busy := false, done := true } ∧
      t.errInfo = s.errInfo

/-- GRID_BUCKET (43_feature_grid R192): the grid of the survivors, its geometry and the registers that show it;
for an empty region GRID_DIM and GRID_TOTAL are 0 (R195 (1), 92 D21; against the letter of 42_nms_extract R164 where one
extent only is empty: assumption 22). -/
def Obligations.GridBucketBuildsTheGrid : Prop :=
  ∀ s : State,
    Legal .gridBucket s → AllAdmitted s.params (walkReads s.regs) →
    ∃ t, exec .gridBucket s = .next t ∧
      t = { s with
        status := { s.status with gridValid := true, indexValid := false, busy := false, done := true }
        gridDim := BitVec.ofNat 32 (gridRows s.regs * 65536 + gridCols s.regs)
        gridTotal := BitVec.ofNat 32 (entryCount (fillGrid s.regs (survivors s)))
        grid :=
          { w := s.regs.width.toNat
            h := s.regs.height.toNat
            border := s.regs.border.toNat
            logB := s.regs.logBkt.toNat
            k := s.regs.bktK.toNat
            hb := gridCols s.regs
            vb := gridRows s.regs
            buckets := fillGrid s.regs (survivors s) }
        freeCount := t.freeCount } ∧
      (s.regs.width.toNat ≤ 2 * s.regs.border.toNat ∨ s.regs.height.toNat ≤ 2 * s.regs.border.toNat →
        t.gridDim = 0 ∧ t.gridTotal = 0)

/-- GRID_REDUCE (43_feature_grid R197, R199 (6)): the trimmed grid; RESULT and GRID_TOTAL are the number of entries it
holds. -/
def Obligations.GridReduceTrimsTheGrid : Prop :=
  ∀ s : State,
    s.status.gridValid = true → Legal .gridReduce s →
    exec .gridReduce s = .next { s with
      status := { s.status with indexValid := false, busy := false, done := true }
      grid := { s.grid with
        buckets := (reduceGrid s.grid s.regs.redMin.toNat s.regs.redMax.toNat s.regs.redStep.toNat
          s.regs.redTarget.toNat).1 }
      result := BitVec.ofNat 32 (entryCount (reduceGrid s.grid s.regs.redMin.toNat s.regs.redMax.toNat
        s.regs.redStep.toNat s.regs.redTarget.toNat).1)
      gridTotal := BitVec.ofNat 32 (entryCount (reduceGrid s.grid s.regs.redMin.toNat s.regs.redMax.toNat
        s.regs.redStep.toNat s.regs.redTarget.toNat).1) }

/-- GRID_INDEX (43_feature_grid R201): every entry is appended, bucket by bucket and weakest first, and start(i, j) is the
position of the bucket's first entry in the array. -/
def Obligations.GridIndexAppendsEveryEntry : Prop :=
  ∀ s : State,
    s.status.gridValid = true → GridOk s → Legal .gridIndex s → Room s 4 (flatten s.grid.buckets).length →
    ∃ t, exec .gridIndex s = .next t ∧
      Appended { s with index := t.index } t 4 (flatten s.grid.buckets).length
        (bytesOfWords (flatten s.grid.buckets)) ∧
      t.status = { s.status with indexValid := true, busy := false, done := true } ∧ t.errInfo = s.errInfo ∧
      ∀ i j, i < s.grid.vb → j < s.grid.hb →
        t.index.getD (i * s.grid.hb + j) 0 =
          s.regs.outCount + BitVec.ofNat 32 (entriesBefore s.grid.buckets (i * s.grid.hb + j))

/-- GRID_QUERY (43_feature_grid R204, R205, R207): the index of every stored feature in the area is appended, once, and no
other, in the order of the buckets and their entries. -/
def Obligations.GridQueryAppendsTheAreaFeatures : Prop :=
  ∀ s : State,
    s.status.gridValid = true → s.status.indexValid = true → GridOk s → Legal .gridQuery s →
    Room s 4 (areaHits s).length →
    ∃ t, exec .gridQuery s = .next t ∧
      Appended s t 4 (areaHits s).length (bytesOfWords (areaHits s)) ∧ EndedWell s t

/-- CENTROID (44_orb_centroid R222): the moments of the keypoints, in groups of four x's and four y's, a lane without a
keypoint holding zeros. -/
def Obligations.CentroidAppendsTheMoments : Prop :=
  ∀ s : State,
    Legal .centroid s → (∀ k, k < s.regs.inCount.toNat → InMargin s k) →
    AllAdmitted s.params (centroidReads s s.regs.inCount.toNat) → Room s 4 (8 * groups s.regs) →
    Apart (centroidReads s s.regs.inCount.toNat) (outAddrs s.regs 4 (8 * groups s.regs)) →
    ∃ t, exec .centroid s = .next t ∧
      Appended s t 4 (8 * groups s.regs) (bytesOfWords (centroidWords s (groups s.regs))) ∧ EndedWell s t

/-- ATAN2 (45_orb_atan2 R237): one bin byte for each pair. -/
def Obligations.Atan2AppendsTheBins : Prop :=
  ∀ s : State,
    Legal .atan2 s → AllAdmitted s.params (inputAddrs s.regs (atan2Inputs s.regs)) →
    Room s 1 s.regs.inCount.toNat →
    Apart (inputAddrs s.regs (atan2Inputs s.regs)) (outAddrs s.regs 1 s.regs.inCount.toNat) →
    ∃ t, exec .atan2 s = .next t ∧
      Appended s t 1 s.regs.inCount.toNat (atan2Bytes s) ∧ EndedWell s t

/-- DESCRIBE (46_orb_describe R253): N words for each keypoint, bit j of word w the result of test 32·w + j. -/
def Obligations.DescribeAppendsTheDescriptors : Prop :=
  ∀ s : State,
    Legal .describe s →
    (∀ k, k < s.regs.inCount.toNat → InMargin s k ∧ (kpOrient (inputWord s k)).toNat < 30) →
    AllAdmitted s.params (describeReads s s.regs.inCount.toNat) →
    Room s 4 (s.regs.descN.toNat * s.regs.inCount.toNat) →
    Apart (describeReads s s.regs.inCount.toNat) (outAddrs s.regs 4 (s.regs.descN.toNat * s.regs.inCount.toNat)) →
    ∃ t, exec .describe s = .next t ∧
      Appended s t 4 (s.regs.descN.toNat * s.regs.inCount.toNat)
        (bytesOfWords (describeWords s s.regs.inCount.toNat)) ∧
      EndedWell s t

/-! ## Properties the rules derive -/

/-- The corner predicate (40_fast_detect R121, R123, R128): the run does not depend on where the ring starts or which way
it is walked; at T = 255, and where every ring pixel equals the centre, no pixel is a corner under the strict
comparison. -/
def Obligations.CornerPredicateSymmetryAndExtremes : Prop :=
  (∀ (m : BitVec 16) (k : Nat), run9 (m.rotateLeft k) = run9 m) ∧
  (∀ m : BitVec 16, run9 m.reverse = run9 m) ∧
  (∀ (c : Byte) (ring : List Byte), isCorner .strict 255 c ring = false) ∧
  ∀ (t : Nat) (c : Byte) (n : Nat), isCorner .strict t c (List.replicate n c) = false

/-- Flat patches score 0, and straight vertical edges score at most 0 (41_harris_score R150 (1), (2)). -/
def Obligations.FlatAndEdgePatchesScoreNothing : Prop :=
  (∀ v : Byte, patchScore .floorDiv8 (List.replicate 64 v) = 0) ∧
  ∀ row : List Byte, row.length = 8 → patchScore .floorDiv8 ((List.replicate 8 row).flatMap fun r => r) ≤ 0

/-- Under the default gradient no 32-bit wrap of the Harris response changes a value (41_harris_score R142 to R144). -/
def Obligations.HarrisResponseDoesNotWrap : Prop :=
  ∀ patch : List Byte,
    let gs := windowGradients .floorDiv8 patch
    let a := sumOver (fun d : Int × Int => d.1 * d.1) gs / 16
    let b := sumOver (fun d : Int × Int => d.2 * d.2) gs / 16
    let c := sumOver (fun d : Int × Int => d.1 * d.2) gs / 16
    patchScore .floorDiv8 patch = (a * b - c * c) - (a + b) * (a + b) / 16

/-- The mini-float (41_harris_score R146): over the reachable scores it is at least 8 and monotone. -/
def Obligations.MiniFloatIsMonotone : Prop :=
  ∀ x y : Int, 1 ≤ x → x ≤ y → y < 2147483584 →
    8 ≤ (minifloat 126 x).toNat ∧ (minifloat 126 x).toNat ≤ (minifloat 126 y).toNat

/-- The survivors of the walk are the cells of the bounded region that dominate their neighbours by the general form of
42_nms_extract R162; each has its own mark, which is not 0, and no two of them share a block (R161, R163). -/
def Obligations.SurvivorsAreTheDominatingCells : Prop :=
  ∀ s : State,
    (∀ x y : Nat, (∃ v ∈ survivors s, v.x = x ∧ v.y = y) ↔ (x, y) ∈ regionCells s.regs ∧ Dominates s x y) ∧
    (∀ v ∈ survivors s, v.mark = mark s v.x v.y ∧ v.mark ≠ 0) ∧
    List.Pairwise (fun u v : Survivor => ¬ sameBlock s.regs u.x u.y v.x v.y) (survivors s)

/-- Bucket insertion (42_nms_extract R168): whatever the order of insertion, the bucket holds the K largest words
inserted, in ascending order. -/
def Obligations.InsertionKeepsTheLargestWords : Prop :=
  ∀ (k : Nat) (ws : List Word), 1 ≤ k → HoldsLargest k ws (ws.foldl (fun b w => bucketInsert k w b) [])

/-- The grid after GRID_BUCKET (43_feature_grid R196): bucket (i, j) holds the K largest words among the survivors of its
cell, ascending, and each stored keypoint's (x, y) lies in its bucket's cell. -/
def Obligations.GridCellsHoldTheirLargestWords : Prop :=
  ∀ (s t : State) (i j : Nat),
    Legal .gridBucket s → exec .gridBucket s = .next t → t.status.gridValid = true →
    i < t.grid.vb → j < t.grid.hb →
    let b := bucketAt t.grid.buckets (i * t.grid.hb + j)
    HoldsLargest s.regs.bktK.toNat (wordsOf (cellSurvivors s.regs (survivors s) i j)) b ∧
    ∀ kp ∈ b,
      ((kpX kp).toNat - s.regs.border.toNat) / 2 ^ s.regs.logBkt.toNat = j ∧
      ((kpY kp).toNat - s.regs.border.toNat) / 2 ^ s.regs.logBkt.toNat = i

/-- GRID_REDUCE meets its quota (43_feature_grid R198, R199 (2), (5)): at the end the total is at most the target, or every
super-cell holds at most RED_MIN entries; a grid already at its target is unchanged. It removes no more than R197 says: the
total does not fall below the target, nor a super-cell below RED_MIN, where they were not below it before. -/
def Obligations.ReduceMeetsItsQuota : Prop :=
  ∀ (g : Grid) (mn mx st tgt : Nat), 1 ≤ st → mn ≤ mx →
    (entryCount (reduceGrid g mn mx st tgt).1 ≤ tgt ∨
      ∀ cells ∈ superCells g.hb g.vb, cellCount (reduceGrid g mn mx st tgt).1 cells ≤ mn) ∧
    (entryCount g.buckets ≤ tgt → (reduceGrid g mn mx st tgt).1 = g.buckets) ∧
    min tgt (entryCount g.buckets) ≤ entryCount (reduceGrid g mn mx st tgt).1 ∧
    ∀ cells ∈ superCells g.hb g.vb,
      min mn (cellCount g.buckets cells) ≤ cellCount (reduceGrid g mn mx st tgt).1 cells

/-- GRID_REDUCE keeps the strongest (43_feature_grid R199 (1), (3), (4)): each bucket loses some of its weakest entries
only; within a super-cell no entry removed is stronger than one kept; the odd final row and column lose nothing. -/
def Obligations.ReduceKeepsTheStrongest : Prop :=
  ∀ (g : Grid) (mn mx st tgt : Nat), g.buckets.length = g.hb * g.vb → (∀ b ∈ g.buckets, Ascending b) →
    ∃ cut : Nat → Nat,
      (∀ q, bucketAt (reduceGrid g mn mx st tgt).1 q = (bucketAt g.buckets q).drop (cut q)) ∧
      (∀ cells ∈ superCells g.hb g.vb, ∀ q ∈ cells, ∀ q' ∈ cells,
        ∀ u ∈ (bucketAt g.buckets q).take (cut q), ∀ v ∈ bucketAt (reduceGrid g mn mx st tgt).1 q',
          u.toNat ≤ v.toNat) ∧
      (∀ i j, i < g.vb → j < g.hb → (g.vb % 2 = 1 ∧ i = g.vb - 1 ∨ g.hb % 2 = 1 ∧ j = g.hb - 1) →
        bucketAt (reduceGrid g mn mx st tgt).1 (i * g.hb + j) = bucketAt g.buckets (i * g.hb + j))

/-- The moments are the sums of 44_orb_centroid R221 over the disk of R220, with no wrap, for every admissible disk. -/
def Obligations.MomentsAreDiskSums : Prop :=
  ∀ (p : Params) (pix : Int → Int → Byte), diskWf p.diskUmax = true →
    let m := momentsOf p ((diskOffsets p.diskUmax).map fun d => pix d.1 d.2)
    m.1.toInt = diskSum p.diskUmax (fun dx _ => dx) pix ∧ m.2.toInt = diskSum p.diskUmax (fun _ dy => dy) pix

/-- A patch that is the same after a turn by 180° has no moments (44_orb_centroid R227 (1), (2)). -/
def Obligations.SymmetricDisksHaveNoMoment : Prop :=
  ∀ (p : Params) (pix : Int → Int → Byte), diskWf p.diskUmax = true →
    (∀ dx dy, pix (-dx) (-dy) = pix dx dy) →
    momentsOf p ((diskOffsets p.diskUmax).map fun d => pix d.1 d.2) = (0, 0)

/-- Bins on the axes and the diagonals (45_orb_atan2 R242 (1), (3), (4)). -/
def Obligations.AxisAndDiagonalBins : Prop :=
  angleBin 0 0 = 0 ∧
  ∀ m : Int, 0 < m → m < 2147483648 →
    angleBin m 0 = 0 ∧ angleBin 0 m = 7 ∧ angleBin (-m) 0 = 15 ∧ angleBin 0 (-m) = 22 ∧
    angleBin m m = 3 ∧ angleBin (-m) m = 11 ∧ angleBin (-m) (-m) = 18 ∧ angleBin m (-m) = 26

/-- Every bin is below 30 (45_orb_atan2 R240). -/
def Obligations.BinsAreBelowThirty : Prop :=
  ∀ mx my : Word, (angleBin mx.toInt my.toInt).toNat < 30

/-- The default rotation (46_orb_describe R251, R252): bin 0 is the base pair clamped, bin 15 its negation clamped, the
rule's examples, and every entry of the ROM it gives lies in [−15, 15]. -/
def Obligations.RotatedPatternFacts : Prop :=
  (∀ base : (Int × Int) × (Int × Int),
    rotProbe base 0 = ⟨clampInt base.1.1 (-15) 15, clampInt base.1.2 (-15) 15, clampInt base.2.1 (-15) 15,
      clampInt base.2.2 (-15) 15⟩ ∧
    rotProbe base 15 = ⟨clampInt (-base.1.1) (-15) 15, clampInt (-base.1.2) (-15) 15,
      clampInt (-base.2.1) (-15) 15, clampInt (-base.2.2) (-15) 15⟩) ∧
  rotOffset 1 0 7 = (0, 1) ∧ rotOffset 10 0 1 = (10, 2) ∧ rotOffset 15 15 3 = (3, 15) ∧
  rotOffset 1 0 5 = (0, 1) ∧ rotOffset 3 0 5 = (2, 3) ∧
  ∀ base : Nat → (Int × Int) × (Int × Int), romWf (romOf base) = true

/-- Descriptor words (30_encoding R93, 46_orb_describe R259 (1)): bit j is the j-th test, and keypoints whose probes each
see one value, which may differ from keypoint to keypoint, have descriptors of zeros. -/
def Obligations.DescriptorBitsAreTheTests : Prop :=
  (∀ (bits : List Bool) (j : Nat), bits.length = 32 → j < 32 → (wordOfBits bits).getLsbD j = bits.getD j false) ∧
  ∀ (s : State) (v : Nat → Byte) (n : Nat),
    (∀ k j, k < n → j < 32 * s.regs.descN.toNat →
      byteAt s.mem (probeAddrs s k j).1 = v k ∧ byteAt s.mem (probeAddrs s k j).2 = v k) →
    ∀ w ∈ describeWords s n, w = 0

/-- The keypoint word and its helpers (30_encoding R84 to R89). -/
def Obligations.KeypointWordFieldsRoundTrip : Prop :=
  (∀ (score : Byte) (x y : BitVec 12),
    (pack score x y).toNat = score.toNat * 16777216 + x.toNat * 4096 + y.toNat ∧
    unpack (pack score x y) = (score, x, y)) ∧
  pack 100 10 10 = 0x6400A00A ∧
  (∀ kp : Word, pack (kpScore kp) (kpX kp) (kpY kp) = kp) ∧
  (∀ (kp : Word) (b : Byte), unpack (rescore kp b) = (b, kpX kp, kpY kp)) ∧
  (∀ (kp : Word) (octave : BitVec 3) (orient : BitVec 5),
    kpOctave (overlay kp octave orient) = octave ∧ kpOrient (overlay kp octave orient) = orient ∧
    kpX (overlay kp octave orient) = kpX kp ∧ kpY (overlay kp octave orient) = kpY kp) ∧
  (∀ kp f : Word,
    kpScore (scale kp f) = kpScore kp ∧
    (kpX (scale kp f)).toNat = (kpX kp).toNat * f.toNat / 65536 % 4096 ∧
    (kpY (scale kp f)).toNat = (kpY kp).toNat * f.toNat / 65536 % 4096) ∧
  ∀ kp : Word, scale kp 0x00010000 = kp

/-- No command can observe grid storage while GRID_VALID = 0, or the index table while INDEX_VALID = 0
(70_reset_and_hazards R300, R321): on states that differ in nothing else, every command has outcomes that differ in
nothing else. -/
def Obligations.UnspecifiedStorageIsNotObservable : Prop :=
  ∀ (i : Instr) (s s' : State), Alike s s' → OutcomeAlike (exec i s) (exec i s')
end

