-- ==== Sys2Proof/Laws/Cmd.lean ====
section
/-! SUPPORT. Sequencing: what a loop gives, and a relation that every part of a command keeps. -/

namespace Sys2Proof.Machine

variable {α β : Type}

/-! ## What a sequence gives -/

@[simp] theorem Cmd.pure_apply (a : α) (c : Run) : Cmd.pure a c = .ok a c := rfl

@[simp] theorem Cmd.raise_apply (e : ErrCode) (i : Word) (c : Run) : (Cmd.raise e i : Cmd α) c = .err e i c := rfl

@[simp] theorem Cmd.modify_apply (f : State → State) (c : Run) :
    Cmd.modify f c = .ok () { c with st := f c.st } := rfl

@[simp] theorem Cmd.get_apply (f : State → α) (c : Run) : Cmd.get f c = .ok (f c.st) c := rfl

@[simp] theorem Cmd.getBuckets_apply (c : Run) : Cmd.getBuckets c = .ok c.buckets c := rfl

@[simp] theorem Cmd.modifyBuckets_apply (f : List Bucket → List Bucket) (c : Run) :
    Cmd.modifyBuckets f c = .ok () { c with buckets := f c.buckets } := rfl

theorem Cmd.bind_ok {x : Cmd α} {f : α → Cmd β} {c c' : Run} {a : α} (h : x c = .ok a c') :
    Cmd.bind x f c = f a c' := by simp [Cmd.bind, h]

theorem Cmd.bind_err {x : Cmd α} {f : α → Cmd β} {c c' : Run} {e : ErrCode} {i : Word} (h : x c = .err e i c') :
    Cmd.bind x f c = .err e i c' := by simp [Cmd.bind, h]

/-- A sequence gives a value exactly where both parts do. -/
theorem Cmd.bind_eq_ok {x : Cmd α} {f : α → Cmd β} {c c' : Run} {b : β} :
    Cmd.bind x f c = .ok b c' ↔ ∃ a c1, x c = .ok a c1 ∧ f a c1 = .ok b c' := by
  unfold Cmd.bind
  cases h : x c <;> simp

@[simp] theorem Cmd.forRange_zero (lo : Nat) (f : Nat → Cmd Unit) (c : Run) : Cmd.forRange lo 0 f c = .ok () c := rfl

theorem Cmd.forRange_succ (lo n : Nat) (f : Nat → Cmd Unit) :
    Cmd.forRange lo (n + 1) f = Cmd.bind (f lo) fun _ => Cmd.forRange (lo + 1) n f := rfl

@[simp] theorem Cmd.forList_nil (f : α → Cmd Unit) (c : Run) : Cmd.forList [] f c = .ok () c := rfl

theorem Cmd.forList_cons (a : α) (as : List α) (f : α → Cmd Unit) :
    Cmd.forList (a :: as) f = Cmd.bind (f a) fun _ => Cmd.forList as f := rfl

/-- A loop whose turns lead from one run to the next along `S` leads from the first to the last. -/
theorem Cmd.forRange_ok (f : Nat → Cmd Unit) (S : Nat → Run) (lo n : Nat)
    (h : ∀ i, i < n → f (lo + i) (S i) = .ok () (S (i + 1))) : Cmd.forRange lo n f (S 0) = .ok () (S n) := by
  induction n generalizing lo S with
  | zero => rfl
  | succ n ih =>
    rw [Cmd.forRange_succ, Cmd.bind_ok (by simpa using h 0 (by omega))]
    have := ih (fun i => S (i + 1)) (lo + 1) fun i hi => by
      have := h (i + 1) (by omega)
      rwa [show lo + 1 + i = lo + (i + 1) by omega]
    simpa using this

/-- A loop that collects values, whose turns lead along `S` and give `v`. -/
theorem Cmd.mapRange_ok (f : Nat → Cmd α) (S : Nat → Run) (v : Nat → α) (lo n : Nat)
    (h : ∀ i, i < n → f (lo + i) (S i) = .ok (v i) (S (i + 1))) :
    Cmd.mapRange lo n f (S 0) = .ok ((List.range n).map v) (S n) := by
  induction n generalizing lo S v with
  | zero => rfl
  | succ n ih =>
    unfold Cmd.mapRange
    rw [Cmd.bind_ok (by simpa using h 0 (by omega))]
    have := ih (fun i => S (i + 1)) (fun i => v (i + 1)) (lo + 1) fun i hi => by
      have := h (i + 1) (by omega)
      rwa [show lo + 1 + i = lo + (i + 1) by omega]
    rw [Cmd.bind_ok this]
    simp [List.range_succ_eq_map, Function.comp_def]

/-- A loop over a list, whose turns lead along `S`. -/
theorem Cmd.forList_ok (f : α → Cmd Unit) (S : Nat → Run) (as : List α)
    (h : ∀ i (hi : i < as.length), f as[i] (S i) = .ok () (S (i + 1))) :
    Cmd.forList as f (S 0) = .ok () (S as.length) := by
  induction as generalizing S with
  | nil => rfl
  | cons a as ih =>
    have h0 : f a (S 0) = .ok () (S 1) := h 0 (by simp)
    rw [Cmd.forList_cons, Cmd.bind_ok h0]
    exact ih (fun i => S (i + 1)) fun i hi => h (i + 1) (by simpa using hi)

/-! ## A relation that every part keeps -/

/-- The run after a part, however it ended. -/
def CmdResult.run : CmdResult α → Run
  | .ok _ c => c
  | .err _ _ c => c

/-- Every way a part can end leads to a run related to the one it began with. -/
def Cmd.Keeps (R : Run → Run → Prop) (x : Cmd α) : Prop := ∀ c, R c (x c).run

variable {R : Run → Run → Prop}

theorem Cmd.Keeps.pure (hr : ∀ c, R c c) (a : α) : Cmd.Keeps R (Cmd.pure a) := hr

theorem Cmd.Keeps.raise (hr : ∀ c, R c c) (e : ErrCode) (i : Word) : Cmd.Keeps R (Cmd.raise e i : Cmd α) := hr

theorem Cmd.Keeps.get (hr : ∀ c, R c c) (f : State → α) : Cmd.Keeps R (Cmd.get f) := hr

theorem Cmd.Keeps.getBuckets (hr : ∀ c, R c c) : Cmd.Keeps R Cmd.getBuckets := hr

theorem Cmd.Keeps.bind (ht : ∀ a b c, R a b → R b c → R a c) {x : Cmd α} {f : α → Cmd β} (hx : Cmd.Keeps R x)
    (hf : ∀ a, Cmd.Keeps R (f a)) : Cmd.Keeps R (Cmd.bind x f) := by
  intro c
  have := hx c
  unfold Cmd.bind
  cases h : x c with
  | ok a c' => rw [h] at this; exact ht _ _ _ this (hf a c')
  | err e i c' => rw [h] at this; exact this

theorem Cmd.Keeps.forRange (hr : ∀ c, R c c) (ht : ∀ a b c, R a b → R b c → R a c) {f : Nat → Cmd Unit}
    (hf : ∀ i, Cmd.Keeps R (f i)) (lo n : Nat) : Cmd.Keeps R (Cmd.forRange lo n f) := by
  induction n generalizing lo with
  | zero => exact hr
  | succ n ih => exact Cmd.Keeps.bind ht (hf lo) fun _ => ih (lo + 1)

theorem Cmd.Keeps.mapRange (hr : ∀ c, R c c) (ht : ∀ a b c, R a b → R b c → R a c) {f : Nat → Cmd α}
    (hf : ∀ i, Cmd.Keeps R (f i)) (lo n : Nat) : Cmd.Keeps R (Cmd.mapRange lo n f) := by
  induction n generalizing lo with
  | zero => exact hr
  | succ n ih =>
    exact Cmd.Keeps.bind ht (hf lo) fun _ => Cmd.Keeps.bind ht (ih (lo + 1)) fun _ => Cmd.Keeps.pure hr _

theorem Cmd.Keeps.forList (hr : ∀ c, R c c) (ht : ∀ a b c, R a b → R b c → R a c) {f : α → Cmd Unit}
    (hf : ∀ a, Cmd.Keeps R (f a)) (as : List α) : Cmd.Keeps R (Cmd.forList as f) := by
  induction as with
  | nil => exact hr
  | cons a as ih => exact Cmd.Keeps.bind ht (hf a) fun _ => ih

theorem Cmd.Keeps.ite (p : Prop) [Decidable p] {x y : Cmd α} (hx : Cmd.Keeps R x) (hy : Cmd.Keeps R y) :
    Cmd.Keeps R (if p then x else y) := by split <;> assumption

theorem Cmd.Keeps.check (hr : ∀ c, R c c) (b : Bool) (r : ParamReg) : Cmd.Keeps R (Machine.check b r) := by
  unfold Machine.check; exact Cmd.Keeps.ite _ (Cmd.Keeps.raise hr _ _) (Cmd.Keeps.pure hr _)

theorem Cmd.Keeps.admitAccess (hr : ∀ c, R c c) (n : Nat) (a : Int) : Cmd.Keeps R (Machine.admitAccess n a) := by
  intro c
  unfold Machine.admitAccess
  cases firstRefused c.st.params a n <;> exact hr c

/-! ## The parts of a command that touch nothing -/

@[simp] theorem check_false (r : ParamReg) (c : Run) : check false r c = .ok () c := rfl

@[simp] theorem check_true (r : ParamReg) (c : Run) :
    check true r c = .err .badParam (r.offset.setWidth 32) c := rfl

theorem check_eq_ok {b : Bool} {r : ParamReg} {c c' : Run} : check b r c = .ok () c' ↔ b = false ∧ c' = c := by
  cases b <;> simp [eq_comm]

end Sys2Proof.Machine
end

