-- ==== Sys2Proof/Laws/Memory.lean ====
section
/-! SUPPORT. The laws of memory: a read after a write, the canonical form, and words as bytes. -/

namespace Sys2Proof.Machine

@[simp] theorem Memory.read_nil (a : Nat) : Memory.read [] a = Memory.unlisted := rfl

@[simp] theorem Memory.read_cons (b : Nat) (v : Byte) (m : Memory) (a : Nat) :
    Memory.read ((b, v) :: m) a = if a = b then v else Memory.read m a := rfl

theorem Memory.read_remove_same (m : Memory) (a : Nat) :
    Memory.read (Memory.remove m a) a = Memory.unlisted := by
  induction m with
  | nil => rfl
  | cons c m ih =>
    obtain ⟨b, v⟩ := c
    by_cases h : a = b <;> simp [Memory.remove, h] <;> simp_all

theorem Memory.read_remove_other (m : Memory) {a b : Nat} (h : b ≠ a) :
    Memory.read (Memory.remove m a) b = Memory.read m b := by
  induction m with
  | nil => rfl
  | cons c m ih =>
    obtain ⟨d, v⟩ := c
    by_cases hd : a = d
    · subst hd; simp [Memory.remove, h, ih]
    · simp [Memory.remove, hd, ih]

theorem Memory.not_listed_remove (m : Memory) (a : Nat) (v : Byte) : (a, v) ∉ Memory.remove m a := by
  induction m with
  | nil => simp [Memory.remove]
  | cons c m ih =>
    obtain ⟨b, w⟩ := c
    by_cases h : a = b
    · simpa [Memory.remove, h] using h ▸ ih
    · simp [Memory.remove, h, ih]

theorem Memory.read_insert_of_not_listed (m : Memory) (a : Nat) (v : Byte) (h : ∀ w, (a, w) ∉ m) :
    Memory.read (Memory.insert m a v) a = v := by
  induction m with
  | nil => simp [Memory.insert]
  | cons c m ih =>
    obtain ⟨b, w⟩ := c
    have hb : a ≠ b := by
      intro e; subst e; exact h w (by simp)
    by_cases hlt : a < b
    · simp [Memory.insert, hlt]
    · simp only [Memory.insert, hlt, if_false, Memory.read_cons, hb]
      exact ih fun w hw => h w (by simp [hw])

theorem Memory.read_insert_other (m : Memory) {a b : Nat} (v : Byte) (h : b ≠ a) :
    Memory.read (Memory.insert m a v) b = Memory.read m b := by
  induction m with
  | nil => simp [Memory.insert, h]
  | cons c m ih =>
    obtain ⟨d, w⟩ := c
    by_cases hlt : a < d <;> simp [Memory.insert, hlt, h, ih]

/-- A read after a write to the same address gives the byte written. -/
@[simp] theorem Memory.read_write_same (m : Memory) (a : Nat) (v : Byte) :
    Memory.read (Memory.write m a v) a = v := by
  unfold Memory.write
  split
  · rename_i h; rw [Memory.read_remove_same, h]
  · exact Memory.read_insert_of_not_listed _ _ _ (Memory.not_listed_remove m a)

/-- A write leaves every other address alone. -/
theorem Memory.read_write_other (m : Memory) {a b : Nat} (v : Byte) (h : b ≠ a) :
    Memory.read (Memory.write m a v) b = Memory.read m b := by
  unfold Memory.write
  split
  · exact Memory.read_remove_other m h
  · rw [Memory.read_insert_other _ _ h, Memory.read_remove_other m h]

theorem Memory.read_write (m : Memory) (a b : Nat) (v : Byte) :
    Memory.read (Memory.write m a v) b = if b = a then v else Memory.read m b := by
  split
  · rename_i h; subst h; simp
  · rename_i h; exact Memory.read_write_other m v h

/-! ## Several bytes -/

@[simp] theorem Memory.writeBytes_nil (m : Memory) (a : Nat) : Memory.writeBytes m a [] = m := rfl

@[simp] theorem Memory.writeBytes_cons (m : Memory) (a : Nat) (v : Byte) (vs : List Byte) :
    Memory.writeBytes m a (v :: vs) = Memory.writeBytes (Memory.write m a v) (a + 1) vs := rfl

theorem Memory.writeBytes_append (m : Memory) (a : Nat) (us vs : List Byte) :
    Memory.writeBytes m a (us ++ vs) = Memory.writeBytes (Memory.writeBytes m a us) (a + us.length) vs := by
  induction us generalizing m a with
  | nil => simp
  | cons u us ih => simp [ih, Nat.add_assoc, Nat.add_comm 1]

/-- Bytes written at an address leave every byte outside them alone. -/
theorem Memory.read_writeBytes_outside (m : Memory) (a b : Nat) (vs : List Byte)
    (h : b < a ∨ a + vs.length ≤ b) : Memory.read (Memory.writeBytes m a vs) b = Memory.read m b := by
  induction vs generalizing m a with
  | nil => rfl
  | cons v vs ih =>
    simp only [List.length_cons] at h
    rw [Memory.writeBytes_cons, ih _ _ (by omega), Memory.read_write_other _ _ (by omega)]

/-- Bytes written at an address read back. -/
theorem Memory.read_writeBytes_inside (m : Memory) (a : Nat) (vs : List Byte) (i : Nat) (h : i < vs.length) :
    Memory.read (Memory.writeBytes m a vs) (a + i) = vs[i] := by
  induction vs generalizing m a i with
  | nil => simp at h
  | cons v vs ih =>
    cases i with
    | zero => simp [Memory.read_writeBytes_outside]
    | succ i =>
      have := ih (Memory.write m a v) (a + 1) i (by simpa using h)
      simpa [Nat.add_assoc, Nat.add_comm 1] using this

@[simp] theorem Memory.readBytes_length (m : Memory) (a n : Nat) : (Memory.readBytes m a n).length = n := by
  induction n generalizing a with
  | zero => rfl
  | succ n ih => simp [Memory.readBytes, ih]

/-- Reading the bytes just written gives them. -/
theorem Memory.readBytes_writeBytes (m : Memory) (a : Nat) (vs : List Byte) :
    Memory.readBytes (Memory.writeBytes m a vs) a vs.length = vs := by
  induction vs generalizing m a with
  | nil => rfl
  | cons v vs ih =>
    simp only [List.length_cons, Memory.readBytes, Memory.writeBytes_cons, ih]
    rw [Memory.read_writeBytes_outside _ _ _ _ (by omega), Memory.read_write_same]

theorem Memory.readBytes_congr (m m' : Memory) (a n : Nat)
    (h : ∀ b, a ≤ b → b < a + n → Memory.read m b = Memory.read m' b) :
    Memory.readBytes m a n = Memory.readBytes m' a n := by
  induction n generalizing a with
  | zero => rfl
  | succ n ih =>
    simp only [Memory.readBytes]
    rw [h a (by omega) (by omega), ih (a + 1) fun b h1 h2 => h b (by omega) (by omega)]

/-- The word of a word's bytes is that word (20_memory R62). -/
@[simp] theorem wordOfBytes_wordBytes (w : Word) : wordOfBytes (wordBytes w) = w := by
  simp only [wordBytes, wordOfBytes]
  apply BitVec.eq_of_getLsbD_eq
  intro i hi
  simp only [BitVec.getLsbD_append, BitVec.getLsbD_extractLsb']
  rcases Nat.lt_or_ge i 8 with h | h
  · simp [h]
  · rcases Nat.lt_or_ge i 16 with h' | h'
    · have : ¬ i < 8 := by omega
      have h2 : i - 8 < 8 := by omega
      simp [this, h2, show 8 + (i - 8) = i by omega]
    · rcases Nat.lt_or_ge i 24 with h'' | h''
      · have a1 : ¬ i < 8 := by omega
        have a2 : ¬ i - 8 < 8 := by omega
        have a3 : i - 8 - 8 < 8 := by omega
        simp [a1, a2, a3, show 16 + (i - 8 - 8) = i by omega]
      · have a1 : ¬ i < 8 := by omega
        have a2 : ¬ i - 8 < 8 := by omega
        have a3 : ¬ i - 8 - 8 < 8 := by omega
        have a4 : i - 8 - 8 - 8 < 8 := by omega
        simp [a1, a2, a3, a4, show 24 + (i - 8 - 8 - 8) = i by omega]

@[simp] theorem wordBytes_length (w : Word) : (wordBytes w).length = 4 := rfl

/-! ## The canonical form -/

/-- The addresses of a memory lie above a bound. -/
theorem Memory.wfFrom_weaken {lo : Option Nat} {m : Memory} (h : Memory.wfFrom lo m = true) :
    Memory.wfFrom none m = true := by
  cases m with
  | nil => rfl
  | cons c m => obtain ⟨a, v⟩ := c; cases lo <;> simp_all [Memory.wfFrom]

theorem Memory.wfFrom_mono {l k : Nat} (hk : k ≤ l) {m : Memory} (h : Memory.wfFrom (some l) m = true) :
    Memory.wfFrom (some k) m = true := by
  cases m with
  | nil => rfl
  | cons c m =>
    obtain ⟨a, v⟩ := c
    simp only [Memory.wfFrom, Bool.and_eq_true, decide_eq_true_eq] at h ⊢
    exact ⟨⟨⟨by omega, h.1.1.2⟩, h.1.2⟩, h.2⟩

theorem Memory.wfFrom_remove {lo : Option Nat} {m : Memory} (a : Nat) (h : Memory.wfFrom lo m = true) :
    Memory.wfFrom lo (Memory.remove m a) = true := by
  induction m generalizing lo with
  | nil => rfl
  | cons c m ih =>
    obtain ⟨b, v⟩ := c
    have hm : Memory.wfFrom (some b) m = true := by simp_all [Memory.wfFrom]
    by_cases hb : a = b
    · simp only [Memory.remove, hb, if_true]
      cases lo with
      | none => exact hb ▸ ih (Memory.wfFrom_weaken hm)
      | some l =>
        have hl : l < b := by simp only [Memory.wfFrom, Bool.and_eq_true, decide_eq_true_eq] at h; exact h.1.1.1
        exact hb ▸ ih (Memory.wfFrom_mono (by omega) hm)
    · simp only [Memory.remove, hb, if_false]
      cases lo <;> simp_all [Memory.wfFrom]

theorem Memory.wfFrom_insert {lo : Option Nat} {m : Memory} {a : Nat} {v : Byte} (hm : Memory.wfFrom lo m = true)
    (hlo : ∀ l, lo = some l → l < a) (ha : a < 4294967296) (hv : v ≠ Memory.unlisted) (hn : ∀ w, (a, w) ∉ m) :
    Memory.wfFrom lo (Memory.insert m a v) = true := by
  induction m generalizing lo with
  | nil => cases lo <;> simp_all [Memory.insert, Memory.wfFrom]
  | cons c m ih =>
    obtain ⟨b, w⟩ := c
    have hb : a ≠ b := by intro e; subst e; exact hn w (by simp)
    have hrest : Memory.wfFrom (some b) m = true := by simp_all [Memory.wfFrom]
    by_cases hlt : a < b
    · simp only [Memory.insert, hlt, if_true]
      cases lo <;> simp_all [Memory.wfFrom]
    · simp only [Memory.insert, hlt, if_false]
      have := ih (lo := some b) hrest (by intro l e; cases e; omega) (fun w hw => hn w (by simp [hw]))
      cases lo <;> simp_all [Memory.wfFrom]

/-- A write keeps the canonical form. -/
theorem Memory.wf_write {m : Memory} {a : Nat} (v : Byte) (h : Memory.wf m = true) (ha : a < 4294967296) :
    Memory.wf (Memory.write m a v) = true := by
  unfold Memory.write
  split
  · exact Memory.wfFrom_remove a h
  · rename_i hv
    exact Memory.wfFrom_insert (Memory.wfFrom_remove a h) (by simp) ha hv (Memory.not_listed_remove m a)

/-- Consecutive writes keep the canonical form. -/
theorem Memory.wf_writeBytes {m : Memory} {a : Nat} (vs : List Byte) (h : Memory.wf m = true)
    (ha : a + vs.length ≤ 4294967296) : Memory.wf (Memory.writeBytes m a vs) = true := by
  induction vs generalizing m a with
  | nil => exact h
  | cons v vs ih =>
    simp only [List.length_cons] at ha
    exact ih (Memory.wf_write v h (by omega)) (by omega)

theorem Memory.wf_lt {lo : Option Nat} {m : Memory} (h : Memory.wfFrom lo m = true) {a : Nat} {v : Byte}
    (ha : (a, v) ∈ m) : a < 4294967296 := by
  induction m generalizing lo with
  | nil => simp at ha
  | cons c m ih =>
    obtain ⟨b, w⟩ := c
    have hb : b < 4294967296 := by simp_all [Memory.wfFrom]
    have hm : Memory.wfFrom (some b) m = true := by simp_all [Memory.wfFrom]
    rcases List.mem_cons.mp ha with e | e
    · cases e; exact hb
    · exact ih hm e

theorem Memory.read_below {b : Nat} {m : Memory} (h : Memory.wfFrom (some b) m = true) {a : Nat} (ha : a ≤ b) :
    Memory.read m a = Memory.unlisted := by
  induction m generalizing b with
  | nil => rfl
  | cons c m ih =>
    obtain ⟨d, w⟩ := c
    simp only [Memory.wfFrom, Bool.and_eq_true, decide_eq_true_eq] at h
    rw [Memory.read_cons, if_neg (by omega)]
    exact ih h.2 (by omega)

/-- Equal memories are equal data: two canonical memories that read the same everywhere are the same list. -/
theorem Memory.ext_of_wf {lo lo' : Option Nat} {m m' : Memory} (h : Memory.wfFrom lo m = true)
    (h' : Memory.wfFrom lo' m' = true) (hr : ∀ a, Memory.read m a = Memory.read m' a) : m = m' := by
  induction m generalizing m' lo lo' with
  | nil =>
    cases m' with
    | nil => rfl
    | cons c m' =>
      obtain ⟨b, w⟩ := c
      have hw : w ≠ Memory.unlisted := by simp_all [Memory.wfFrom]
      have := hr b
      simp at this
      exact absurd this.symm hw
  | cons c m ih =>
    obtain ⟨b, w⟩ := c
    have hw : w ≠ Memory.unlisted := by simp_all [Memory.wfFrom]
    have hm : Memory.wfFrom (some b) m = true := by simp_all [Memory.wfFrom]
    cases m' with
    | nil => have := hr b; simp at this; exact absurd this hw
    | cons c' m' =>
      obtain ⟨b', w'⟩ := c'
      have hw' : w' ≠ Memory.unlisted := by simp_all [Memory.wfFrom]
      have hm' : Memory.wfFrom (some b') m' = true := by simp_all [Memory.wfFrom]
      have hbb : b = b' := by
        rcases Nat.lt_trichotomy b b' with hlt | heq | hgt
        · have := hr b
          rw [Memory.read_cons, if_pos rfl, Memory.read_cons, if_neg (by omega),
            Memory.read_below hm' (by omega)] at this
          exact absurd this hw
        · exact heq
        · have := hr b'
          rw [Memory.read_cons, if_neg (by omega), Memory.read_below hm (by omega), Memory.read_cons,
            if_pos rfl] at this
          exact absurd this.symm hw'
      subst hbb
      have hww : w = w' := by simpa using hr b
      subst hww
      congr 1
      refine ih hm hm' fun a => ?_
      by_cases hab : a ≤ b
      · rw [Memory.read_below hm hab, Memory.read_below hm' hab]
      · have := hr a
        rwa [Memory.read_cons, if_neg (by omega), Memory.read_cons, if_neg (by omega)] at this

end Sys2Proof.Machine
end

