-- ==== Sys2Proof/Laws/Ops.lean ====
section
/-! SUPPORT. What each shared operation can do, said once. -/

namespace Sys2Proof.Machine

/-! ## Admission -/

theorem admitted_bounds {p : Params} {a : Int} (h : admitted p a = true) : 0 ≤ a ∧ a < 4294967296 := by
  simp only [admitted, Bool.and_eq_true, decide_eq_true_eq] at h
  exact h.1

/-- No byte of the access is refused exactly when each is admitted. -/
theorem firstRefused_eq_none {p : Params} {a : Int} {n : Nat} :
    firstRefused p a n = none ↔ ∀ i : Nat, i < n → admitted p (a + i) = true := by
  induction n generalizing a with
  | zero => simp [firstRefused]
  | succ n ih =>
    unfold firstRefused
    split
    · rename_i h
      rw [ih]
      constructor
      · intro hh i hi
        cases i with
        | zero => simpa using h
        | succ i =>
          have := hh i (by omega)
          rwa [show a + 1 + (i : Int) = a + ((i + 1 : Nat) : Int) by push_cast; ring] at this
      · intro hh i hi
        have := hh (i + 1) (by omega)
        rwa [show a + ((i + 1 : Nat) : Int) = a + 1 + (i : Int) by push_cast; ring] at this
    · rename_i h
      simp only [reduceCtorEq, false_iff, not_forall]
      exact ⟨0, by omega, by simpa using h⟩

/-- The address BUS reports is the lowest refused one of the access (20_memory R65). -/
theorem firstRefused_eq_some {p : Params} {a b : Int} {n : Nat} (h : firstRefused p a n = some b) :
    ∃ i : Nat, i < n ∧ b = a + i ∧ admitted p b = false ∧ ∀ j : Nat, j < i → admitted p (a + j) = true := by
  induction n generalizing a with
  | zero => simp [firstRefused] at h
  | succ n ih =>
    unfold firstRefused at h
    split at h
    · rename_i ha
      obtain ⟨i, hi, hb, hr, hj⟩ := ih h
      refine ⟨i + 1, by omega, by rw [hb]; push_cast; ring, hr, fun j hji => ?_⟩
      cases j with
      | zero => simpa using ha
      | succ j =>
        have := hj j (by omega)
        rwa [show a + 1 + (j : Int) = a + ((j + 1 : Nat) : Int) by push_cast; ring] at this
    · rename_i ha
      cases h
      exact ⟨0, by omega, by simp, by simpa using ha, fun j hj => absurd hj (by omega)⟩

/-- An access passes admission, leaving the run as it was, or ends the command with BUS at its lowest refused byte. -/
theorem admitAccess_cases (n : Nat) (a : Int) (c : Run) :
    (firstRefused c.st.params a n = none ∧ admitAccess n a c = .ok () c) ∨
    (∃ b, firstRefused c.st.params a n = some b ∧ admitAccess n a c = .err .bus (busInfo b) c) := by
  unfold admitAccess
  cases h : firstRefused c.st.params a n with
  | none => exact Or.inl ⟨rfl, rfl⟩
  | some b => exact Or.inr ⟨b, rfl, rfl⟩

theorem admitAccess_ok {n : Nat} {a : Int} {c : Run} (h : ∀ i : Nat, i < n → admitted c.st.params (a + i) = true) :
    admitAccess n a c = .ok () c := by
  rcases admitAccess_cases n a c with ⟨_, hh⟩ | ⟨b, hb, _⟩
  · exact hh
  · rw [firstRefused_eq_none.mpr h] at hb; exact absurd hb (by simp)

/-! ## Reads and writes of the block -/

/-- An admitted access gives the bytes of memory. -/
theorem readBytes_ok {n : Nat} {a : Int} {c : Run} (h : ∀ i : Nat, i < n → admitted c.st.params (a + i) = true) :
    readBytes n a c = .ok (Memory.readBytes c.st.mem a.toNat n) c := by
  unfold readBytes
  rw [Cmd.bind_ok (admitAccess_ok h)]
  rfl

/-- An admitted word read gives the little-endian word. -/
theorem memReadWord_ok {a : Int} {c : Run} (h : ∀ i : Nat, i < 4 → admitted c.st.params (a + i) = true) :
    memReadWord a c = .ok (wordOfBytes (Memory.readBytes c.st.mem a.toNat 4)) c := by
  unfold memReadWord
  rw [Cmd.bind_ok (readBytes_ok h)]
  rfl

/-- An admitted byte read gives the byte. -/
theorem memReadByte_ok {a : Int} {c : Run} (h : admitted c.st.params a = true) :
    memReadByte a c = .ok (Memory.read c.st.mem a.toNat) c := by
  unfold memReadByte
  rw [Cmd.bind_ok (readBytes_ok (n := 1) fun i hi => by rw [show i = 0 by omega]; simpa using h)]
  rfl

/-- An admitted write stores the bytes. -/
theorem memWrite_ok {a : Int} {bs : List Byte} {c : Run}
    (h : ∀ i : Nat, i < bs.length → admitted c.st.params (a + i) = true) :
    memWrite a bs c = .ok () { c with st := { c.st with mem := Memory.writeBytes c.st.mem a.toNat bs } } := by
  unfold memWrite
  rw [Cmd.bind_ok (admitAccess_ok h)]
  rfl

/-- Everything a write can do. -/
theorem memWrite_cases (a : Int) (bs : List Byte) (c : Run) :
    ((∀ i : Nat, i < bs.length → admitted c.st.params (a + i) = true) ∧
      memWrite a bs c = .ok () { c with st := { c.st with mem := Memory.writeBytes c.st.mem a.toNat bs } }) ∨
    (∃ b, firstRefused c.st.params a bs.length = some b ∧ memWrite a bs c = .err .bus (busInfo b) c) := by
  rcases admitAccess_cases bs.length a c with ⟨h, _⟩ | ⟨b, hb, he⟩
  · exact Or.inl ⟨firstRefused_eq_none.mp h, memWrite_ok (firstRefused_eq_none.mp h)⟩
  · exact Or.inr ⟨b, hb, by unfold memWrite; rw [Cmd.bind_err he]⟩

theorem refusedOf_eq_nil {p : Params} {as : List Int} (h : ∀ a ∈ as, admitted p a = true) : refusedOf p as = [] := by
  induction as with
  | nil => rfl
  | cons a as ih => simp [refusedOf, h a (by simp), ih fun b hb => h b (by simp [hb])]

theorem mem_refusedOf {p : Params} {as : List Int} {a : Int} :
    a ∈ refusedOf p as ↔ a ∈ as ∧ admitted p a = false := by
  induction as with
  | nil => simp [refusedOf]
  | cons b as ih =>
    unfold refusedOf
    split
    · rename_i h
      rw [ih, List.mem_cons]
      constructor
      · rintro ⟨h1, h2⟩; exact ⟨Or.inr h1, h2⟩
      · rintro ⟨rfl | h1, h2⟩
        · rw [h] at h2; exact absurd h2 (by simp)
        · exact ⟨h1, h2⟩
    · rename_i h
      rw [List.mem_cons, ih, List.mem_cons]
      constructor
      · rintro (rfl | ⟨h1, h2⟩)
        · exact ⟨Or.inl rfl, by simpa using h⟩
        · exact ⟨Or.inr h1, h2⟩
      · rintro ⟨rfl | h1, h2⟩
        · exact Or.inl rfl
        · exact Or.inr ⟨h1, h2⟩

/-- An unordered group of admitted reads gives their bytes. -/
theorem readUnordered_ok {as : List Int} {c : Run} (h : ∀ a ∈ as, admitted c.st.params a = true) :
    readUnordered as c = .ok (as.map fun a => Memory.read c.st.mem a.toNat) c := by
  unfold readUnordered
  rw [refusedOf_eq_nil h]

/-- Everything an unordered group of reads can do: it gives the bytes, or it ends the command with BUS at one of its
refused addresses. The run stays as it was. -/
theorem readUnordered_cases (as : List Int) (c : Run) :
    ((∀ a ∈ as, admitted c.st.params a = true) ∧
      readUnordered as c = .ok (as.map fun a => Memory.read c.st.mem a.toNat) c) ∨
    (∃ a, a ∈ as ∧ admitted c.st.params a = false ∧
      readUnordered as c = .err .bus (busInfo a) c) := by
  by_cases h : ∀ a ∈ as, admitted c.st.params a = true
  · exact Or.inl ⟨h, readUnordered_ok h⟩
  · right
    unfold readUnordered
    cases hr : refusedOf c.st.params as with
    | nil =>
      exfalso; apply h
      intro a ha
      by_contra hn
      have : a ∈ refusedOf c.st.params as := mem_refusedOf.mpr ⟨ha, by simpa using hn⟩
      rw [hr] at this; simp at this
    | cons r rs =>
      have hmem : ∀ a, a ∈ r :: rs → a ∈ as ∧ admitted c.st.params a = false := by
        intro a ha; rw [← hr] at ha; exact mem_refusedOf.mp ha
      by_cases hs : rs.all (fun x => decide (x = r)) = true
      · refine ⟨r, (hmem r (by simp)).1, (hmem r (by simp)).2, ?_⟩
        simp only [hs, if_true]
      · have hlt : Config.freePick c.st.regs c.st.mem (r :: rs) % (rs.length + 1) < (r :: rs).length :=
          Nat.mod_lt _ (Nat.succ_pos _)
        have hget := List.getElem_mem hlt
        refine ⟨(r :: rs).getD (Config.freePick c.st.regs c.st.mem (r :: rs) % (rs.length + 1)) r, ?_, ?_, ?_⟩
        · rw [List.getD_eq_getElem _ _ hlt]; exact (hmem _ hget).1
        · rw [List.getD_eq_getElem _ _ hlt]; exact (hmem _ hget).2
        · simp only [hs]; rfl

/-! ## Appending -/

/-- An append with room and an admitted element stores it and counts it (20_memory R68). -/
theorem append_ok {bs : List Byte} {c : Run} (hcap : c.st.regs.outCount ≠ c.st.regs.outCap)
    (h : ∀ i : Nat, i < bs.length → admitted c.st.params (appendAddr c.st.regs bs.length + i) = true) :
    append bs c = .ok ()
      { c with
        st := State.countElement
          { c.st with mem := Memory.writeBytes c.st.mem (appendAddr c.st.regs bs.length).toNat bs } } := by
  unfold append
  rw [Cmd.bind_ok (Cmd.get_apply State.regs c), if_neg hcap, Cmd.bind_ok (memWrite_ok h)]
  rfl

/-- Everything an append can do. -/
theorem append_cases (bs : List Byte) (c : Run) :
    (c.st.regs.outCount = c.st.regs.outCap ∧ append bs c = .err .outFull c.st.regs.outCount c) ∨
    (c.st.regs.outCount ≠ c.st.regs.outCap ∧
      (∀ i : Nat, i < bs.length → admitted c.st.params (appendAddr c.st.regs bs.length + i) = true) ∧
      append bs c = .ok ()
        { c with
          st := State.countElement
            { c.st with mem := Memory.writeBytes c.st.mem (appendAddr c.st.regs bs.length).toNat bs } }) ∨
    (c.st.regs.outCount ≠ c.st.regs.outCap ∧
      ∃ b, firstRefused c.st.params (appendAddr c.st.regs bs.length) bs.length = some b ∧
        append bs c = .err .bus (busInfo b) c) := by
  by_cases hcap : c.st.regs.outCount = c.st.regs.outCap
  · refine Or.inl ⟨hcap, ?_⟩
    unfold append
    rw [Cmd.bind_ok (Cmd.get_apply State.regs c), if_pos hcap]
    rfl
  · right
    rcases memWrite_cases (appendAddr c.st.regs bs.length) bs c with ⟨h, _⟩ | ⟨b, hb, he⟩
    · exact Or.inl ⟨hcap, h, append_ok hcap h⟩
    · refine Or.inr ⟨hcap, b, hb, ?_⟩
      unfold append
      rw [Cmd.bind_ok (Cmd.get_apply State.regs c), if_neg hcap, Cmd.bind_err he]

/-! ## A whole command -/

/-- An address lies in a span. -/
def Span.Has (u : Span) (a : Nat) : Prop := u.1 ≤ a ∧ a < u.1 + u.2

/-- An address lies in one of some spans. -/
def Covers (us : List Span) (a : Nat) : Prop := ∃ u ∈ us, Span.Has u a

@[simp] theorem covers_nil (a : Nat) : ¬ Covers [] a := by simp [Covers]

@[simp] theorem covers_append {us vs : List Span} {a : Nat} : Covers (us ++ vs) a ↔ Covers us a ∨ Covers vs a := by
  simp [Covers, or_and_right, exists_or]

@[simp] theorem covers_byteSpans {as : List Int} {a : Nat} : Covers (byteSpans as) a ↔ (a : Int) ∈ as := by
  simp only [Covers, byteSpans, List.mem_map, List.mem_filter, decide_eq_true_eq, Span.Has, exists_exists_and_eq_and]
  constructor
  · rintro ⟨b, ⟨hb, h0⟩, h1, h2⟩
    obtain rfl : b = (a : Int) := by omega
    exact hb
  · exact fun h => ⟨a, ⟨h, by omega⟩, by omega, by omega⟩

/-- An output footprint covers the bytes of its elements, and no other. -/
@[simp] theorem covers_outSpan {r : ParamRegs} {esize n a : Nat} :
    Covers [outSpan r esize n] a ↔
      r.outBase.toNat + esize * r.outCount.toNat ≤ a ∧ a < r.outBase.toNat + esize * r.outCount.toNat + esize * n := by
  simp only [Covers, List.mem_singleton, exists_eq_left, Span.Has, outSpan, appendAddr, Int.toNat_natCast]

theorem spansMeet_eq_true {u v : Span} : spansMeet u v = true ↔ ∃ a, Span.Has u a ∧ Span.Has v a := by
  simp only [spansMeet, decide_eq_true_eq, Span.Has]
  constructor
  · intro h; exact ⟨max u.1 v.1, by omega, by omega⟩
  · rintro ⟨a, h1, h2⟩; omega

/-- Footprints meet exactly when they share an address. -/
theorem footprintsMeet_eq_true {reads writes : List Span} :
    footprintsMeet reads writes = true ↔ ∃ a, Covers writes a ∧ Covers reads a := by
  simp only [footprintsMeet, List.any_eq_true, spansMeet_eq_true, Covers]
  constructor
  · rintro ⟨w, hw, r, hr, a, h1, h2⟩; exact ⟨a, ⟨w, hw, h2⟩, r, hr, h1⟩
  · rintro ⟨a, ⟨w, hw, h2⟩, r, hr, h1⟩; exact ⟨w, hw, r, hr, a, h1, h2⟩

theorem footprintsMeet_eq_false {reads writes : List Span} :
    footprintsMeet reads writes = false ↔ ∀ a, Covers writes a → ¬ Covers reads a := by
  rw [← Bool.not_eq_true, footprintsMeet_eq_true]; push Not; rfl

@[simp] theorem declareFootprint_apply (reads writes : List Span) (c : Run) :
    declareFootprint reads writes c = .ok () { c with reads := reads ++ c.reads, writes := writes ++ c.writes } := rfl

theorem runCommand_ok {last : State → State} {body : Cmd Unit} {s : State} {c : Run}
    (h : body s.begin = .ok () c) (hm : ∀ a, Covers c.writes a → ¬ Covers c.reads a) :
    runCommand last body s = .next (State.finish (last c.st)) := by
  unfold runCommand
  rw [h]
  simp [footprintsMeet_eq_false.mpr hm]

theorem runCommand_err {last : State → State} {body : Cmd Unit} {s : State} {c : Run} {e : ErrCode} {i : Word}
    (h : body s.begin = .err e i c) (hm : ∀ a, Covers c.writes a → ¬ Covers c.reads a) :
    runCommand last body s = .next (State.raise (last c.st) e i) := by
  unfold runCommand
  rw [h]
  simp [footprintsMeet_eq_false.mpr hm]

/-- A command whose declared footprints share an address faults, however it ends (20_memory R67). -/
theorem runCommand_overlap {last : State → State} {body : Cmd Unit} {s : State} {a : Nat}
    (hw : Covers (body s.begin).run.writes a) (hr : Covers (body s.begin).run.reads a) :
    runCommand last body s = .fault .footprintOverlap := by
  unfold runCommand
  cases hb : body s.begin with
  | ok _ c =>
    rw [hb] at hw hr
    exact if_pos (footprintsMeet_eq_true.mpr ⟨a, hw, hr⟩)
  | err _ _ c =>
    rw [hb] at hw hr
    exact if_pos (footprintsMeet_eq_true.mpr ⟨a, hw, hr⟩)

/-- Everything a whole command can do when it ends in a next state. -/
theorem runCommand_next {last : State → State} {body : Cmd Unit} {s t : State} (h : runCommand last body s = .next t) :
    (∃ c, body s.begin = .ok () c ∧ t = State.finish (last c.st)) ∨
    (∃ e i c, body s.begin = .err e i c ∧ t = State.raise (last c.st) e i) := by
  unfold runCommand at h
  cases hb : body s.begin with
  | ok a c =>
    rw [hb] at h
    dsimp only at h
    split at h
    · cases h
    · cases h; exact Or.inl ⟨c, rfl, rfl⟩
  | err e i c =>
    rw [hb] at h
    dsimp only at h
    split at h
    · cases h
    · cases h; exact Or.inr ⟨e, i, c, rfl, rfl⟩

/-- A whole command never refuses. -/
theorem runCommand_not_refused {last : State → State} {body : Cmd Unit} {s : State} {r : Refusal} :
    runCommand last body s ≠ .refused r := by
  unfold runCommand
  cases body s.begin <;> dsimp only <;> split <;> simp

/-- A relation that the body keeps holds between the state a command began with and the one it ended with. -/
theorem runCommand_keeps {R : Run → Run → Prop} {last : State → State} {body : Cmd Unit} {s t : State}
    (hb : Cmd.Keeps R body) (h : runCommand last body s = .next t) :
    ∃ c, R s.begin c ∧ (t = State.finish (last c.st) ∨ ∃ e i, t = State.raise (last c.st) e i) := by
  have := hb s.begin
  rcases runCommand_next h with ⟨c, hc, ht⟩ | ⟨e, i, c, hc, ht⟩
  · rw [hc] at this; exact ⟨c, this, Or.inl ht⟩
  · rw [hc] at this; exact ⟨c, this, Or.inr ⟨e, i, ht⟩⟩

end Sys2Proof.Machine
end

