-- ==== Sys2Proof/Laws/State.lean ====
section
/-! SUPPORT. What each update of the state leaves in each field. -/

namespace Sys2Proof.Machine

variable (s : State) (t : Status)

/-! ### State.accept -/

@[simp] theorem State.accept_params (v : Word) : (s.accept v).params = s.params := rfl
@[simp] theorem State.accept_cmd (v : Word) : (s.accept v).cmd = v := rfl
@[simp] theorem State.accept_status (v : Word) : (s.accept v).status = s.status.accepted := rfl
@[simp] theorem State.accept_errInfo (v : Word) : (s.accept v).errInfo = 0 := rfl
@[simp] theorem State.accept_result (v : Word) : (s.accept v).result = 0 := rfl
@[simp] theorem State.accept_regs (v : Word) : (s.accept v).regs = s.regs := rfl
@[simp] theorem State.accept_gridDim (v : Word) : (s.accept v).gridDim = s.gridDim := rfl
@[simp] theorem State.accept_gridTotal (v : Word) : (s.accept v).gridTotal = s.gridTotal := rfl
@[simp] theorem State.accept_grid (v : Word) : (s.accept v).grid = s.grid := rfl
@[simp] theorem State.accept_index (v : Word) : (s.accept v).index = s.index := rfl
@[simp] theorem State.accept_mem (v : Word) : (s.accept v).mem = s.mem := rfl
@[simp] theorem State.accept_inReset (v : Word) : (s.accept v).inReset = s.inReset := rfl
@[simp] theorem State.accept_inputs (v : Word) : (s.accept v).inputs = s.inputs := rfl
@[simp] theorem State.accept_readData (v : Word) : (s.accept v).readData = s.readData := rfl
@[simp] theorem State.accept_freeCount (v : Word) : (s.accept v).freeCount = s.freeCount := rfl

/-! ### State.drop -/

@[simp] theorem State.drop_params : s.drop.params = s.params := rfl
@[simp] theorem State.drop_cmd : s.drop.cmd = s.cmd := rfl
@[simp] theorem State.drop_status : s.drop.status = s.status.dropped := rfl
@[simp] theorem State.drop_errInfo : s.drop.errInfo = s.errInfo := rfl
@[simp] theorem State.drop_result : s.drop.result = s.result := rfl
@[simp] theorem State.drop_regs : s.drop.regs = s.regs := rfl
@[simp] theorem State.drop_gridDim : s.drop.gridDim = s.gridDim := rfl
@[simp] theorem State.drop_gridTotal : s.drop.gridTotal = s.gridTotal := rfl
@[simp] theorem State.drop_grid : s.drop.grid = s.grid := rfl
@[simp] theorem State.drop_index : s.drop.index = s.index := rfl
@[simp] theorem State.drop_mem : s.drop.mem = s.mem := rfl
@[simp] theorem State.drop_inReset : s.drop.inReset = s.inReset := rfl
@[simp] theorem State.drop_inputs : s.drop.inputs = s.inputs := rfl
@[simp] theorem State.drop_readData : s.drop.readData = s.readData := rfl
@[simp] theorem State.drop_freeCount : s.drop.freeCount = s.freeCount := rfl

/-! ### State.finish -/

@[simp] theorem State.finish_params : s.finish.params = s.params := rfl
@[simp] theorem State.finish_cmd : s.finish.cmd = s.cmd := rfl
@[simp] theorem State.finish_status : s.finish.status = s.status.ended := rfl
@[simp] theorem State.finish_errInfo : s.finish.errInfo = s.errInfo := rfl
@[simp] theorem State.finish_result : s.finish.result = s.result := rfl
@[simp] theorem State.finish_regs : s.finish.regs = s.regs := rfl
@[simp] theorem State.finish_gridDim : s.finish.gridDim = s.gridDim := rfl
@[simp] theorem State.finish_gridTotal : s.finish.gridTotal = s.gridTotal := rfl
@[simp] theorem State.finish_grid : s.finish.grid = s.grid := rfl
@[simp] theorem State.finish_index : s.finish.index = s.index := rfl
@[simp] theorem State.finish_mem : s.finish.mem = s.mem := rfl
@[simp] theorem State.finish_inReset : s.finish.inReset = s.inReset := rfl
@[simp] theorem State.finish_inputs : s.finish.inputs = s.inputs := rfl
@[simp] theorem State.finish_readData : s.finish.readData = s.readData := rfl
@[simp] theorem State.finish_freeCount : s.finish.freeCount = s.freeCount := rfl

/-! ### State.raise -/

@[simp] theorem State.raise_params (e : ErrCode) (i : Word) : (s.raise e i).params = s.params := rfl
@[simp] theorem State.raise_cmd (e : ErrCode) (i : Word) : (s.raise e i).cmd = s.cmd := rfl
@[simp] theorem State.raise_status (e : ErrCode) (i : Word) : (s.raise e i).status = s.status.raised e := rfl
@[simp] theorem State.raise_errInfo (e : ErrCode) (i : Word) : (s.raise e i).errInfo = i := rfl
@[simp] theorem State.raise_result (e : ErrCode) (i : Word) : (s.raise e i).result = s.result := rfl
@[simp] theorem State.raise_regs (e : ErrCode) (i : Word) : (s.raise e i).regs = s.regs := rfl
@[simp] theorem State.raise_gridDim (e : ErrCode) (i : Word) : (s.raise e i).gridDim = s.gridDim := rfl
@[simp] theorem State.raise_gridTotal (e : ErrCode) (i : Word) : (s.raise e i).gridTotal = s.gridTotal := rfl
@[simp] theorem State.raise_grid (e : ErrCode) (i : Word) : (s.raise e i).grid = s.grid := rfl
@[simp] theorem State.raise_index (e : ErrCode) (i : Word) : (s.raise e i).index = s.index := rfl
@[simp] theorem State.raise_mem (e : ErrCode) (i : Word) : (s.raise e i).mem = s.mem := rfl
@[simp] theorem State.raise_inReset (e : ErrCode) (i : Word) : (s.raise e i).inReset = s.inReset := rfl
@[simp] theorem State.raise_inputs (e : ErrCode) (i : Word) : (s.raise e i).inputs = s.inputs := rfl
@[simp] theorem State.raise_readData (e : ErrCode) (i : Word) : (s.raise e i).readData = s.readData := rfl
@[simp] theorem State.raise_freeCount (e : ErrCode) (i : Word) : (s.raise e i).freeCount = s.freeCount := rfl

/-! ### State.refreshTotal -/

@[simp] theorem State.refreshTotal_params : s.refreshTotal.params = s.params := rfl
@[simp] theorem State.refreshTotal_cmd : s.refreshTotal.cmd = s.cmd := rfl
@[simp] theorem State.refreshTotal_status : s.refreshTotal.status = s.status := rfl
@[simp] theorem State.refreshTotal_errInfo : s.refreshTotal.errInfo = s.errInfo := rfl
@[simp] theorem State.refreshTotal_result : s.refreshTotal.result = s.result := rfl
@[simp] theorem State.refreshTotal_regs : s.refreshTotal.regs = s.regs := rfl
@[simp] theorem State.refreshTotal_gridDim : s.refreshTotal.gridDim = s.gridDim := rfl
@[simp] theorem State.refreshTotal_gridTotal :
    s.refreshTotal.gridTotal = (if s.status.gridValid then BitVec.ofNat 32 (entryCount s.grid.buckets) else 0) := rfl
@[simp] theorem State.refreshTotal_grid : s.refreshTotal.grid = s.grid := rfl
@[simp] theorem State.refreshTotal_index : s.refreshTotal.index = s.index := rfl
@[simp] theorem State.refreshTotal_mem : s.refreshTotal.mem = s.mem := rfl
@[simp] theorem State.refreshTotal_inReset : s.refreshTotal.inReset = s.inReset := rfl
@[simp] theorem State.refreshTotal_inputs : s.refreshTotal.inputs = s.inputs := rfl
@[simp] theorem State.refreshTotal_readData : s.refreshTotal.readData = s.readData := rfl
@[simp] theorem State.refreshTotal_freeCount : s.refreshTotal.freeCount = s.freeCount := rfl

/-! ### State.countElement -/

@[simp] theorem State.countElement_params : s.countElement.params = s.params := rfl
@[simp] theorem State.countElement_cmd : s.countElement.cmd = s.cmd := rfl
@[simp] theorem State.countElement_status : s.countElement.status = s.status := rfl
@[simp] theorem State.countElement_errInfo : s.countElement.errInfo = s.errInfo := rfl
@[simp] theorem State.countElement_result : s.countElement.result = s.result + 1 := rfl
@[simp] theorem State.countElement_regs : s.countElement.regs = { s.regs with outCount := s.regs.outCount + 1 } := rfl
@[simp] theorem State.countElement_gridDim : s.countElement.gridDim = s.gridDim := rfl
@[simp] theorem State.countElement_gridTotal : s.countElement.gridTotal = s.gridTotal := rfl
@[simp] theorem State.countElement_grid : s.countElement.grid = s.grid := rfl
@[simp] theorem State.countElement_index : s.countElement.index = s.index := rfl
@[simp] theorem State.countElement_mem : s.countElement.mem = s.mem := rfl
@[simp] theorem State.countElement_inReset : s.countElement.inReset = s.inReset := rfl
@[simp] theorem State.countElement_inputs : s.countElement.inputs = s.inputs := rfl
@[simp] theorem State.countElement_readData : s.countElement.readData = s.readData := rfl
@[simp] theorem State.countElement_freeCount : s.countElement.freeCount = s.freeCount := rfl

/-! ### State.loseGrid -/

@[simp] theorem State.loseGrid_params : s.loseGrid.params = s.params := rfl
@[simp] theorem State.loseGrid_cmd : s.loseGrid.cmd = s.cmd := rfl
@[simp] theorem State.loseGrid_status :
    s.loseGrid.status = { s.status with gridValid := false, indexValid := false } := rfl
@[simp] theorem State.loseGrid_errInfo : s.loseGrid.errInfo = s.errInfo := rfl
@[simp] theorem State.loseGrid_result : s.loseGrid.result = s.result := rfl
@[simp] theorem State.loseGrid_regs : s.loseGrid.regs = s.regs := rfl
@[simp] theorem State.loseGrid_gridDim : s.loseGrid.gridDim = 0 := rfl
@[simp] theorem State.loseGrid_gridTotal : s.loseGrid.gridTotal = 0 := rfl
@[simp] theorem State.loseGrid_grid : s.loseGrid.grid = Config.freeGrid s.freeCount := rfl
@[simp] theorem State.loseGrid_index : s.loseGrid.index = s.index := rfl
@[simp] theorem State.loseGrid_mem : s.loseGrid.mem = s.mem := rfl
@[simp] theorem State.loseGrid_inReset : s.loseGrid.inReset = s.inReset := rfl
@[simp] theorem State.loseGrid_inputs : s.loseGrid.inputs = s.inputs := rfl
@[simp] theorem State.loseGrid_readData : s.loseGrid.readData = s.readData := rfl
@[simp] theorem State.loseGrid_freeCount : s.loseGrid.freeCount = s.freeCount + 1 := rfl

/-! ### State.installGrid -/

@[simp] theorem State.installGrid_params (g : Grid) : (s.installGrid g).params = s.params := rfl
@[simp] theorem State.installGrid_cmd (g : Grid) : (s.installGrid g).cmd = s.cmd := rfl
@[simp] theorem State.installGrid_status (g : Grid) :
    (s.installGrid g).status = { s.status with gridValid := true } := rfl
@[simp] theorem State.installGrid_errInfo (g : Grid) : (s.installGrid g).errInfo = s.errInfo := rfl
@[simp] theorem State.installGrid_result (g : Grid) : (s.installGrid g).result = s.result := rfl
@[simp] theorem State.installGrid_regs (g : Grid) : (s.installGrid g).regs = s.regs := rfl
@[simp] theorem State.installGrid_gridDim (g : Grid) : (s.installGrid g).gridDim = gridDimWord g.hb g.vb := rfl
@[simp] theorem State.installGrid_gridTotal (g : Grid) :
    (s.installGrid g).gridTotal = BitVec.ofNat 32 (entryCount g.buckets) := rfl
@[simp] theorem State.installGrid_grid (g : Grid) : (s.installGrid g).grid = g := rfl
@[simp] theorem State.installGrid_index (g : Grid) : (s.installGrid g).index = s.index := rfl
@[simp] theorem State.installGrid_mem (g : Grid) : (s.installGrid g).mem = s.mem := rfl
@[simp] theorem State.installGrid_inReset (g : Grid) : (s.installGrid g).inReset = s.inReset := rfl
@[simp] theorem State.installGrid_inputs (g : Grid) : (s.installGrid g).inputs = s.inputs := rfl
@[simp] theorem State.installGrid_readData (g : Grid) : (s.installGrid g).readData = s.readData := rfl
@[simp] theorem State.installGrid_freeCount (g : Grid) : (s.installGrid g).freeCount = s.freeCount := rfl

/-! ### State.dropIndex -/

@[simp] theorem State.dropIndex_params : s.dropIndex.params = s.params := rfl
@[simp] theorem State.dropIndex_cmd : s.dropIndex.cmd = s.cmd := rfl
@[simp] theorem State.dropIndex_status : s.dropIndex.status = { s.status with indexValid := false } := rfl
@[simp] theorem State.dropIndex_errInfo : s.dropIndex.errInfo = s.errInfo := rfl
@[simp] theorem State.dropIndex_result : s.dropIndex.result = s.result := rfl
@[simp] theorem State.dropIndex_regs : s.dropIndex.regs = s.regs := rfl
@[simp] theorem State.dropIndex_gridDim : s.dropIndex.gridDim = s.gridDim := rfl
@[simp] theorem State.dropIndex_gridTotal : s.dropIndex.gridTotal = s.gridTotal := rfl
@[simp] theorem State.dropIndex_grid : s.dropIndex.grid = s.grid := rfl
@[simp] theorem State.dropIndex_index : s.dropIndex.index = s.index := rfl
@[simp] theorem State.dropIndex_mem : s.dropIndex.mem = s.mem := rfl
@[simp] theorem State.dropIndex_inReset : s.dropIndex.inReset = s.inReset := rfl
@[simp] theorem State.dropIndex_inputs : s.dropIndex.inputs = s.inputs := rfl
@[simp] theorem State.dropIndex_readData : s.dropIndex.readData = s.readData := rfl
@[simp] theorem State.dropIndex_freeCount : s.dropIndex.freeCount = s.freeCount := rfl

/-! ### State.reduce -/

@[simp] theorem State.reduce_params : s.reduce.params = s.params := rfl
@[simp] theorem State.reduce_cmd : s.reduce.cmd = s.cmd := rfl
@[simp] theorem State.reduce_status : s.reduce.status = { s.status with indexValid := false } := rfl
@[simp] theorem State.reduce_errInfo : s.reduce.errInfo = s.errInfo := rfl
@[simp] theorem State.reduce_result :
    s.reduce.result = BitVec.ofNat 32 (reduceGrid s.grid s.regs.redMin.toNat s.regs.redMax.toNat s.regs.redStep.toNat
        s.regs.redTarget.toNat).2 := rfl
@[simp] theorem State.reduce_regs : s.reduce.regs = s.regs := rfl
@[simp] theorem State.reduce_gridDim : s.reduce.gridDim = s.gridDim := rfl
@[simp] theorem State.reduce_gridTotal :
    s.reduce.gridTotal = BitVec.ofNat 32 (reduceGrid s.grid s.regs.redMin.toNat s.regs.redMax.toNat s.regs.redStep.toNat
        s.regs.redTarget.toNat).2 := rfl
@[simp] theorem State.reduce_grid :
    s.reduce.grid = { s.grid with buckets := (reduceGrid s.grid s.regs.redMin.toNat s.regs.redMax.toNat s.regs.redStep.toNat
        s.regs.redTarget.toNat).1 } := rfl
@[simp] theorem State.reduce_index : s.reduce.index = s.index := rfl
@[simp] theorem State.reduce_mem : s.reduce.mem = s.mem := rfl
@[simp] theorem State.reduce_inReset : s.reduce.inReset = s.inReset := rfl
@[simp] theorem State.reduce_inputs : s.reduce.inputs = s.inputs := rfl
@[simp] theorem State.reduce_readData : s.reduce.readData = s.readData := rfl
@[simp] theorem State.reduce_freeCount : s.reduce.freeCount = s.freeCount := rfl

/-! ### State.validateIndex -/

@[simp] theorem State.validateIndex_params : s.validateIndex.params = s.params := rfl
@[simp] theorem State.validateIndex_cmd : s.validateIndex.cmd = s.cmd := rfl
@[simp] theorem State.validateIndex_status : s.validateIndex.status = { s.status with indexValid := true } := rfl
@[simp] theorem State.validateIndex_errInfo : s.validateIndex.errInfo = s.errInfo := rfl
@[simp] theorem State.validateIndex_result : s.validateIndex.result = s.result := rfl
@[simp] theorem State.validateIndex_regs : s.validateIndex.regs = s.regs := rfl
@[simp] theorem State.validateIndex_gridDim : s.validateIndex.gridDim = s.gridDim := rfl
@[simp] theorem State.validateIndex_gridTotal : s.validateIndex.gridTotal = s.gridTotal := rfl
@[simp] theorem State.validateIndex_grid : s.validateIndex.grid = s.grid := rfl
@[simp] theorem State.validateIndex_index : s.validateIndex.index = s.index := rfl
@[simp] theorem State.validateIndex_mem : s.validateIndex.mem = s.mem := rfl
@[simp] theorem State.validateIndex_inReset : s.validateIndex.inReset = s.inReset := rfl
@[simp] theorem State.validateIndex_inputs : s.validateIndex.inputs = s.inputs := rfl
@[simp] theorem State.validateIndex_readData : s.validateIndex.readData = s.readData := rfl
@[simp] theorem State.validateIndex_freeCount : s.validateIndex.freeCount = s.freeCount := rfl

/-! ### State.returnRead -/

@[simp] theorem State.returnRead_params (v : Word) : (s.returnRead v).params = s.params := rfl
@[simp] theorem State.returnRead_cmd (v : Word) : (s.returnRead v).cmd = s.cmd := rfl
@[simp] theorem State.returnRead_status (v : Word) : (s.returnRead v).status = s.status := rfl
@[simp] theorem State.returnRead_errInfo (v : Word) : (s.returnRead v).errInfo = s.errInfo := rfl
@[simp] theorem State.returnRead_result (v : Word) : (s.returnRead v).result = s.result := rfl
@[simp] theorem State.returnRead_regs (v : Word) : (s.returnRead v).regs = s.regs := rfl
@[simp] theorem State.returnRead_gridDim (v : Word) : (s.returnRead v).gridDim = s.gridDim := rfl
@[simp] theorem State.returnRead_gridTotal (v : Word) : (s.returnRead v).gridTotal = s.gridTotal := rfl
@[simp] theorem State.returnRead_grid (v : Word) : (s.returnRead v).grid = s.grid := rfl
@[simp] theorem State.returnRead_index (v : Word) : (s.returnRead v).index = s.index := rfl
@[simp] theorem State.returnRead_mem (v : Word) : (s.returnRead v).mem = s.mem := rfl
@[simp] theorem State.returnRead_inReset (v : Word) : (s.returnRead v).inReset = s.inReset := rfl
@[simp] theorem State.returnRead_inputs (v : Word) : (s.returnRead v).inputs = s.inputs := rfl
@[simp] theorem State.returnRead_readData (v : Word) : (s.returnRead v).readData = v := rfl
@[simp] theorem State.returnRead_freeCount (v : Word) : (s.returnRead v).freeCount = s.freeCount := rfl

/-! ### State.store -/

@[simp] theorem State.store_params (a : Nat) (bs : List Byte) : (s.store a bs).params = s.params := rfl
@[simp] theorem State.store_cmd (a : Nat) (bs : List Byte) : (s.store a bs).cmd = s.cmd := rfl
@[simp] theorem State.store_status (a : Nat) (bs : List Byte) : (s.store a bs).status = s.status := rfl
@[simp] theorem State.store_errInfo (a : Nat) (bs : List Byte) : (s.store a bs).errInfo = s.errInfo := rfl
@[simp] theorem State.store_result (a : Nat) (bs : List Byte) : (s.store a bs).result = s.result := rfl
@[simp] theorem State.store_regs (a : Nat) (bs : List Byte) : (s.store a bs).regs = s.regs := rfl
@[simp] theorem State.store_gridDim (a : Nat) (bs : List Byte) : (s.store a bs).gridDim = s.gridDim := rfl
@[simp] theorem State.store_gridTotal (a : Nat) (bs : List Byte) : (s.store a bs).gridTotal = s.gridTotal := rfl
@[simp] theorem State.store_grid (a : Nat) (bs : List Byte) : (s.store a bs).grid = s.grid := rfl
@[simp] theorem State.store_index (a : Nat) (bs : List Byte) : (s.store a bs).index = s.index := rfl
@[simp] theorem State.store_mem (a : Nat) (bs : List Byte) : (s.store a bs).mem = Memory.writeBytes s.mem a bs := rfl
@[simp] theorem State.store_inReset (a : Nat) (bs : List Byte) : (s.store a bs).inReset = s.inReset := rfl
@[simp] theorem State.store_inputs (a : Nat) (bs : List Byte) : (s.store a bs).inputs = s.inputs := rfl
@[simp] theorem State.store_readData (a : Nat) (bs : List Byte) : (s.store a bs).readData = s.readData := rfl
@[simp] theorem State.store_freeCount (a : Nat) (bs : List Byte) : (s.store a bs).freeCount = s.freeCount := rfl

/-! ### State.assertReset -/

@[simp] theorem State.assertReset_params : s.assertReset.params = s.params := rfl
@[simp] theorem State.assertReset_cmd : s.assertReset.cmd = s.cmd := rfl
@[simp] theorem State.assertReset_status : s.assertReset.status = s.status := rfl
@[simp] theorem State.assertReset_errInfo : s.assertReset.errInfo = s.errInfo := rfl
@[simp] theorem State.assertReset_result : s.assertReset.result = s.result := rfl
@[simp] theorem State.assertReset_regs : s.assertReset.regs = s.regs := rfl
@[simp] theorem State.assertReset_gridDim : s.assertReset.gridDim = s.gridDim := rfl
@[simp] theorem State.assertReset_gridTotal : s.assertReset.gridTotal = s.gridTotal := rfl
@[simp] theorem State.assertReset_grid : s.assertReset.grid = s.grid := rfl
@[simp] theorem State.assertReset_index : s.assertReset.index = s.index := rfl
@[simp] theorem State.assertReset_mem : s.assertReset.mem = s.mem := rfl
@[simp] theorem State.assertReset_inReset : s.assertReset.inReset = true := rfl
@[simp] theorem State.assertReset_inputs : s.assertReset.inputs = s.inputs := rfl
@[simp] theorem State.assertReset_readData : s.assertReset.readData = s.readData := rfl
@[simp] theorem State.assertReset_freeCount : s.assertReset.freeCount = s.freeCount := rfl

/-! ### State.afterReset -/

@[simp] theorem State.afterReset_params : s.afterReset.params = s.params := rfl
@[simp] theorem State.afterReset_cmd : s.afterReset.cmd = 0 := rfl
@[simp] theorem State.afterReset_status : s.afterReset.status = Status.zero := rfl
@[simp] theorem State.afterReset_errInfo : s.afterReset.errInfo = 0 := rfl
@[simp] theorem State.afterReset_result : s.afterReset.result = 0 := rfl
@[simp] theorem State.afterReset_regs : s.afterReset.regs = ParamRegs.zero := rfl
@[simp] theorem State.afterReset_gridDim : s.afterReset.gridDim = 0 := rfl
@[simp] theorem State.afterReset_gridTotal : s.afterReset.gridTotal = 0 := rfl
@[simp] theorem State.afterReset_grid : s.afterReset.grid = Config.freeGrid s.freeCount := rfl
@[simp] theorem State.afterReset_index : s.afterReset.index = Config.freeIndex s.freeCount := rfl
@[simp] theorem State.afterReset_mem : s.afterReset.mem = s.mem := rfl
@[simp] theorem State.afterReset_inReset : s.afterReset.inReset = false := rfl
@[simp] theorem State.afterReset_inputs : s.afterReset.inputs = s.inputs := rfl
@[simp] theorem State.afterReset_readData : s.afterReset.readData = s.readData := rfl
@[simp] theorem State.afterReset_freeCount : s.afterReset.freeCount = s.freeCount + 1 := rfl

/-! ### State.presentCommand -/

@[simp] theorem State.presentCommand_params (v : Word) : (s.presentCommand v).params = s.params := rfl
@[simp] theorem State.presentCommand_cmd (v : Word) : (s.presentCommand v).cmd = s.cmd := rfl
@[simp] theorem State.presentCommand_status (v : Word) :
    (s.presentCommand v).status = { s.status with busy := false, err := false, errCode := .none } := rfl
@[simp] theorem State.presentCommand_errInfo (v : Word) : (s.presentCommand v).errInfo = s.errInfo := rfl
@[simp] theorem State.presentCommand_result (v : Word) : (s.presentCommand v).result = s.result := rfl
@[simp] theorem State.presentCommand_regs (v : Word) : (s.presentCommand v).regs = s.regs := rfl
@[simp] theorem State.presentCommand_gridDim (v : Word) : (s.presentCommand v).gridDim = s.gridDim := rfl
@[simp] theorem State.presentCommand_gridTotal (v : Word) : (s.presentCommand v).gridTotal = s.gridTotal := rfl
@[simp] theorem State.presentCommand_grid (v : Word) : (s.presentCommand v).grid = s.grid := rfl
@[simp] theorem State.presentCommand_index (v : Word) : (s.presentCommand v).index = s.index := rfl
@[simp] theorem State.presentCommand_mem (v : Word) : (s.presentCommand v).mem = s.mem := rfl
@[simp] theorem State.presentCommand_inReset (v : Word) : (s.presentCommand v).inReset = false := rfl
@[simp] theorem State.presentCommand_inputs (v : Word) :
    (s.presentCommand v).inputs = .regWrite .w32 0x00 v :: s.inputs := rfl
@[simp] theorem State.presentCommand_readData (v : Word) : (s.presentCommand v).readData = s.readData := rfl
@[simp] theorem State.presentCommand_freeCount (v : Word) : (s.presentCommand v).freeCount = s.freeCount := rfl

/-! ### Status.accepted -/

@[simp] theorem Status.accepted_busy : t.accepted.busy = true := rfl
@[simp] theorem Status.accepted_done : t.accepted.done = false := rfl
@[simp] theorem Status.accepted_err : t.accepted.err = t.err := rfl
@[simp] theorem Status.accepted_wdrop : t.accepted.wdrop = t.wdrop := rfl
@[simp] theorem Status.accepted_errCode : t.accepted.errCode = t.errCode := rfl
@[simp] theorem Status.accepted_gridValid : t.accepted.gridValid = t.gridValid := rfl
@[simp] theorem Status.accepted_indexValid : t.accepted.indexValid = t.indexValid := rfl

/-! ### Status.ended -/

@[simp] theorem Status.ended_busy : t.ended.busy = false := rfl
@[simp] theorem Status.ended_done : t.ended.done = true := rfl
@[simp] theorem Status.ended_err : t.ended.err = t.err := rfl
@[simp] theorem Status.ended_wdrop : t.ended.wdrop = t.wdrop := rfl
@[simp] theorem Status.ended_errCode : t.ended.errCode = t.errCode := rfl
@[simp] theorem Status.ended_gridValid : t.ended.gridValid = t.gridValid := rfl
@[simp] theorem Status.ended_indexValid : t.ended.indexValid = t.indexValid := rfl

/-! ### Status.raised -/

@[simp] theorem Status.raised_busy (e : ErrCode) : (t.raised e).busy = false := rfl
@[simp] theorem Status.raised_done (e : ErrCode) : (t.raised e).done = true := rfl
@[simp] theorem Status.raised_err (e : ErrCode) : (t.raised e).err = true := rfl
@[simp] theorem Status.raised_wdrop (e : ErrCode) : (t.raised e).wdrop = t.wdrop := rfl
@[simp] theorem Status.raised_errCode (e : ErrCode) : (t.raised e).errCode = e := rfl
@[simp] theorem Status.raised_gridValid (e : ErrCode) : (t.raised e).gridValid = t.gridValid := rfl
@[simp] theorem Status.raised_indexValid (e : ErrCode) : (t.raised e).indexValid = t.indexValid := rfl

/-! ### Status.dropped -/

@[simp] theorem Status.dropped_busy : t.dropped.busy = t.busy := rfl
@[simp] theorem Status.dropped_done : t.dropped.done = t.done := rfl
@[simp] theorem Status.dropped_err : t.dropped.err = t.err := rfl
@[simp] theorem Status.dropped_wdrop : t.dropped.wdrop = true := rfl
@[simp] theorem Status.dropped_errCode : t.dropped.errCode = t.errCode := rfl
@[simp] theorem Status.dropped_gridValid : t.dropped.gridValid = t.gridValid := rfl
@[simp] theorem Status.dropped_indexValid : t.dropped.indexValid = t.indexValid := rfl

/-! ### Status.writeOneToClear -/

@[simp] theorem Status.writeOneToClear_busy (v : Word) : (t.writeOneToClear v).busy = t.busy := rfl
@[simp] theorem Status.writeOneToClear_done (v : Word) : (t.writeOneToClear v).done = (t.done && !v.getLsbD 1) := rfl
@[simp] theorem Status.writeOneToClear_err (v : Word) : (t.writeOneToClear v).err = (t.err && !v.getLsbD 2) := rfl
@[simp] theorem Status.writeOneToClear_wdrop (v : Word) : (t.writeOneToClear v).wdrop = (t.wdrop && !v.getLsbD 3) := rfl
@[simp] theorem Status.writeOneToClear_errCode (v : Word) : (t.writeOneToClear v).errCode = (if v.getLsbD 2 then .none else t.errCode) := rfl
@[simp] theorem Status.writeOneToClear_gridValid (v : Word) : (t.writeOneToClear v).gridValid = t.gridValid := rfl
@[simp] theorem Status.writeOneToClear_indexValid (v : Word) : (t.writeOneToClear v).indexValid = t.indexValid := rfl

/-! ### Parameter registers -/

@[simp] theorem ParamRegs.get_set_same (r : ParamRegs) (p : ParamReg) (v : Word) : (r.set p v).get p = v := by
  cases p <;> rfl

theorem ParamRegs.get_set_other (r : ParamRegs) {p q : ParamReg} (v : Word) (h : q ≠ p) :
    (r.set p v).get q = r.get q := by
  cases p <;> cases q <;> first | rfl | exact absurd rfl h

/-- Two register files that agree on every register are the same. -/
theorem ParamRegs.ext_get {r r' : ParamRegs} (h : ∀ p, r.get p = r'.get p) : r = r' := by
  cases r; cases r'
  have hh := fun p => h p
  simp only [ParamRegs.mk.injEq]
  refine ⟨hh .imgBase, hh .marksBase, hh .stride, hh .width, hh .height, hh .border, hh .fastT, hh .harrisT,
    hh .logBkt, hh .bktK, hh .inBase, hh .inCount, hh .outBase, hh .outCap, hh .outCount, hh .qX, hh .qY, hh .qR,
    hh .redMin, hh .redMax, hh .redStep, hh .redTarget, hh .descN⟩

/-! ### Geometry -/

/-- An empty region has no buckets (92_eei_decisions D21; assumption 22). -/
theorem geometry_empty {w h border : Nat} (logB : Nat) (he : w ≤ 2 * border ∨ h ≤ 2 * border) :
    geometry w h border logB = (0, 0) := if_pos he

/-- A region that is not empty has the numbers of 42_nms_extract R164. -/
theorem geometry_nonempty {w h border : Nat} (logB : Nat) (hw : 2 * border < w) (hh : 2 * border < h) :
    geometry w h border logB = (bucketsAlong w border logB, bucketsAlong h border logB) := if_neg (by omega)

/-! ### Memory -/

/-- The memory after reset lists nothing. -/
theorem State.reset_mem_wf : Memory.wf State.reset.mem = true := rfl

end Sys2Proof.Machine
end

