-- ==== Sys2Proof/Laws/Host.lean ====
section
/-! SUPPORT. What the host's acts can do, said once. -/

namespace Sys2Proof.Machine

/-! ## Reset during a command -/

/-- A byte of the memory that `landWrites` gives has its old value or its new one. -/
theorem read_landWrites (choice : Nat → Bool) (new : Memory) (as : List Nat) (m : Memory) (a : Nat) :
    Memory.read (landWrites choice new as m) a = Memory.read m a ∨
      Memory.read (landWrites choice new as m) a = Memory.read new a := by
  induction as generalizing m with
  | nil => exact Or.inl rfl
  | cons b as ih =>
    rcases ih (if choice b then Memory.write m b (Memory.read new b) else m) with h | h
    · unfold landWrites
      rw [h]
      split
      · rw [Memory.read_write]
        split
        · rename_i hab; subst hab; exact Or.inr rfl
        · exact Or.inl rfl
      · exact Or.inl rfl
    · exact Or.inr h

/-- `landWrites` keeps the canonical form. -/
theorem wf_landWrites (choice : Nat → Bool) (new : Memory) (as : List Nat) (m : Memory) (hm : Memory.wf m = true)
    (ha : ∀ a ∈ as, a < 4294967296) : Memory.wf (landWrites choice new as m) = true := by
  induction as generalizing m with
  | nil => exact hm
  | cons b as ih =>
    refine ih _ ?_ fun a h => ha a (List.mem_cons_of_mem _ h)
    split
    · exact Memory.wf_write _ hm (ha b List.mem_cons_self)
    · exact hm

/-- The memory after a torn command keeps the canonical form. -/
theorem wf_abortedMemory (choice : Nat → Bool) {old new : Memory} (ho : Memory.wf old = true)
    (hn : Memory.wf new = true) : Memory.wf (abortedMemory choice old new) = true := by
  refine wf_landWrites choice new _ old ho fun a ha => ?_
  rw [List.mem_append, List.mem_map, List.mem_map] at ha
  rcases ha with ⟨⟨b, v⟩, hb, rfl⟩ | ⟨⟨b, v⟩, hb, rfl⟩
  · exact Memory.wf_lt ho hb
  · exact Memory.wf_lt hn hb

/-! ## The register window -/

/-- The offsets of the parameter registers are those of the window. -/
theorem regAt_param (p : ParamReg) : regAt p.offset = some (.param p) := by cases p <;> rfl

/-- Every register stands at its offset. -/
theorem regAt_offset (r : RegName) : regAt r.offset = some r := by
  cases r with
  | param p => exact regAt_param p
  | _ => rfl

/-- Every register's offset is 4-aligned. -/
theorem RegName.offset_aligned (r : RegName) : r.offset.toNat % 4 = 0 := by
  cases r with
  | param p => cases p <;> rfl
  | _ => rfl

/-- A 32-bit access at a register's offset reaches that register. -/
theorem accessedReg_offset (r : RegName) : accessedReg .w32 r.offset = some r := regAt_offset r

/-- A host write of a register, when the block is neither in reset nor busy. -/
theorem hostRegWrite_idle (r : RegName) (v : Word) {s : State} (hr : s.inReset = false)
    (hb : s.status.busy = false) : hostRegWrite .w32 r.offset v s = writeReg r v s := by
  simp [hostRegWrite, hr, hb, wellFormedAccess, RegName.offset_aligned, accessedReg_offset]

/-- A host read of a register, when the block is neither in reset nor busy. -/
theorem hostRegRead_idle (r : RegName) {s : State} (hr : s.inReset = false) (hb : s.status.busy = false) :
    hostRegRead .w32 r.offset s = .next (s.returnRead (readReg s r)) := by
  simp [hostRegRead, hr, hb, accessedReg_offset]

/-- A step with no act left changes nothing. -/
theorem step_idle {s : State} (h : s.inputs = []) : step s = .next s := by simp [step, stepInput, h]

/-- A step performs the host's next act. -/
theorem step_act {s : State} {e : HostEvent} {rest : List HostEvent} (h : s.inputs = e :: rest) :
    step s = hostEvent e { s with inputs := rest } := by simp [step, stepInput, h]

end Sys2Proof.Machine
end

