-- ==== Sys2Proof/Laws/PerInstr.lean ====
section
/-! SUPPORT. Statements made for each command apart, with one lemma a command. -/

namespace Sys2Proof.Laws

/-- The command's word is well formed: RSVD = 0, and OP is the command's opcode (30_encoding R80, R81). -/
def EncodedWord.Statement (i : Instr) : Prop :=
  commandWordWf (encode i) = true ∧ opField (encode i) = opOfInstr i ∧ Instr.wf i = true

theorem EncodedWord.detect : EncodedWord.Statement .detect := ⟨by decide, by decide, rfl⟩
theorem EncodedWord.score : EncodedWord.Statement .score := ⟨by decide, by decide, rfl⟩
theorem EncodedWord.extract : EncodedWord.Statement .extract := ⟨by decide, by decide, rfl⟩
theorem EncodedWord.extractBkt : EncodedWord.Statement .extractBkt := ⟨by decide, by decide, rfl⟩
theorem EncodedWord.gridBucket : EncodedWord.Statement .gridBucket := ⟨by decide, by decide, rfl⟩
theorem EncodedWord.gridReduce : EncodedWord.Statement .gridReduce := ⟨by decide, by decide, rfl⟩
theorem EncodedWord.gridIndex : EncodedWord.Statement .gridIndex := ⟨by decide, by decide, rfl⟩
theorem EncodedWord.gridQuery : EncodedWord.Statement .gridQuery := ⟨by decide, by decide, rfl⟩
theorem EncodedWord.centroid : EncodedWord.Statement .centroid := ⟨by decide, by decide, rfl⟩
theorem EncodedWord.atan2 : EncodedWord.Statement .atan2 := ⟨by decide, by decide, rfl⟩
theorem EncodedWord.describe : EncodedWord.Statement .describe := ⟨by decide, by decide, rfl⟩

end Sys2Proof.Laws
end

