-- ==== Sys2Proof/Tests/Slice0.lean ====
section
/-! SUPPORT. The author's tests: command words written out bit by bit, ill-formed terms refused, one or two single steps
for each command with results worked out in the spec, and a witness for every statement with hypotheses. -/

namespace Sys2Proof.Tests

set_option Elab.async false

open Sys2Proof.Machine Sys2Proof.Safety

/-! ## Small states -/

/-- Parameters with small storage and memory below 64 KiB. -/
def tp : Params :=
  { resetParams with maxK := 4, maxBuckets := 16, admitRanges := [(0, 0xFFFF)], rotPattern := [] }

/-- A state right after reset, with those parameters and no storage. -/
def ts : State := { State.reset with params := tp, grid := ⟨0, 0, 0, 0, 0, 0, 0, []⟩, index := [] }

/-- A raster of memory cells: value `f x y` at base + stride·y + x, 0 values left out. -/
def cells (base stride w h : Nat) (f : Nat → Nat → Nat) : Memory :=
  (List.range h).flatMap fun y => (List.range w).flatMap fun x =>
    if f x y = 0 then [] else [(base + stride * y + x, BitVec.ofNat 8 (f x y))]

/-- A raster at IMG_BASE 0x1000 and MARKS_BASE 0x2000. -/
def raster (w h b : Word) (mem : Memory) : State :=
  { ts with
    mem := mem
    regs := { ts.regs with
      imgBase := 0x1000, marksBase := 0x2000, stride := w, width := w, height := h, border := b
      outBase := 0x3000, outCap := 16 } }

/-- A property of the state a command ends in. -/
def ends (o : Host.Outcome State Fault Refusal) (f : State → Bool) : Bool :=
  match o with
  | .next t => f t
  | .fault _ => false
  | .refused _ => false

theorem ends_next {o : Host.Outcome State Fault Refusal} {f : State → Bool} (h : ends o f = true) :
    ∃ t, o = .next t ∧ f t = true := by
  cases o with
  | next t => exact ⟨t, rfl, h⟩
  | fault _ => cases h
  | refused _ => cases h

/-- A command ended with an error. -/
def failed (e : ErrCode) (info : Word) (t : State) : Bool :=
  t.status.err && decide (t.status.errCode = e) && decide (t.errInfo = info)

/-! ## Command words, bit by bit (30_encoding R80, R81) -/

theorem test_word_detect : decode 0b00000000000000000000000000000001#32 = .ok .detect := rfl
theorem test_word_score : decode 0b00000000000000000000000000000010#32 = .ok .score := rfl
theorem test_word_extract : decode 0b00000000000000000000000000000011#32 = .ok .extract := rfl
theorem test_word_extractBkt : decode 0b00000000000000000000000000000100#32 = .ok .extractBkt := rfl
theorem test_word_gridBucket : decode 0b00000000000000000000000000000101#32 = .ok .gridBucket := rfl
theorem test_word_gridReduce : decode 0b00000000000000000000000000000110#32 = .ok .gridReduce := rfl
theorem test_word_gridIndex : decode 0b00000000000000000000000000000111#32 = .ok .gridIndex := rfl
theorem test_word_gridQuery : decode 0b00000000000000000000000000001000#32 = .ok .gridQuery := rfl
theorem test_word_centroid : decode 0b00000000000000000000000000001001#32 = .ok .centroid := rfl
theorem test_word_atan2 : decode 0b00000000000000000000000000001010#32 = .ok .atan2 := rfl
theorem test_word_describe : decode 0b00000000000000000000000000001011#32 = .ok .describe := rfl

theorem test_rejected_words :
    decode 0x00000000 = .error .unassignedOpcode ∧ decode 0x0000000C = .error .unassignedOpcode ∧
    decode 0x000000FF = .error .unassignedOpcode ∧ decode 0x00000101 = .error .reservedBits ∧
    decode 0x80000001 = .error .reservedBits := ⟨rfl, rfl, rfl, rfl, rfl⟩

theorem test_table_words :
    decodeTableWord 32 0x0B = some .describe ∧ decodeTableWord 32 0x0C = none ∧
    decodeTableWord 32 0x10B = none ∧ decodeTableWord 8 0x07 = some .gridIndex := by decide

/-! ## Ill-formed terms are refused -/

theorem test_wf_word_opcode_zero : commandWordWf 0x00000000 = false := by decide
theorem test_wf_word_opcode_too_large : commandWordWf 0x0000000C = false := by decide
theorem test_wf_word_reserved_bits : commandWordWf 0x00000101 = false := by decide
theorem test_wf_ring_length : ringWf [] = false := by decide
theorem test_wf_ring_range : ringWf ((4, 0) :: Config.defaultRing.tail) = false := by decide
theorem test_wf_disk_length : diskWf [15] = false := by decide
theorem test_wf_disk_range : diskWf (15 :: 16 :: List.replicate 14 0) = false := by decide
theorem test_wf_disk_first : diskWf (14 :: List.replicate 15 0) = false := by decide
theorem test_wf_probe_range :
    probeWf ⟨16, 0, 0, 0⟩ = false ∧ probeWf ⟨0, -16, 0, 0⟩ = false ∧ probeWf ⟨0, 0, 16, 0⟩ = false ∧
    probeWf ⟨0, 0, 0, -16⟩ = false := by decide
theorem test_wf_rom_rows : romWf [] = false := by decide
theorem test_wf_rom_columns : romWf (List.replicate 30 []) = false := by decide

/-- A pattern ROM of the right shape. -/
def shapedRom : List (List Probe) := List.replicate 30 (List.replicate 256 ⟨1, 0, -1, 0⟩)

theorem test_wf_params : Params.wf { tp with rotPattern := shapedRom } = true := by decide +kernel
theorem test_wf_params_max_k : Params.wf { tp with maxK := 0, rotPattern := shapedRom } = false := by decide +kernel
theorem test_wf_params_max_buckets : Params.wf { tp with maxBuckets := 0, rotPattern := shapedRom } = false := by
  decide +kernel
theorem test_wf_params_window : Params.wf { tp with harrisWinLo := -4, rotPattern := shapedRom } = false := by
  decide +kernel

/-! ## DETECT (95_test_vectors §2; 40_fast_detect R123, R125) -/

/-- A 7×7 image of 100 with ring pixels 0 .. n − 1 at 80, and 5 in the two edge bytes. -/
def detectState (n : Nat) : State :=
  let dark (x y : Nat) : Bool :=
    (Config.defaultRing.take n).any fun d => decide ((x : Int) = 3 + d.1 ∧ (y : Int) = 3 + d.2)
  let s := raster 7 7 3 (cells 0x1000 7 7 7 (fun x y => if dark x y then 80 else 100)
    ++ [(0x201C, 5), (0x201D, 5), (0x201E, 5)])
  { s with regs := { s.regs with fastT := 10 } }

theorem test_detect_nine_dark : ends (exec .detect (detectState 9)) (fun t =>
    Memory.read t.mem 0x2018 = 0xFF && Memory.read t.mem 0x201C = 0 && Memory.read t.mem 0x201D = 0 &&
    Memory.read t.mem 0x201E = 5 && t.status.done && !t.status.err && t.result = 0) = true := by decide +kernel

theorem test_detect_eight_dark : ends (exec .detect (detectState 8)) (fun t =>
    Memory.read t.mem 0x2018 = 0x00 && !t.status.err) = true := by decide +kernel

/-! ## SCORE (41_harris_score R151) -/

/-- A 9×9 image with the quadrant x, y ≥ 4 at 255, and mark (4, 4) = 0xFF. -/
def scoreState : State := raster 9 9 4 (cells 0x1000 9 9 9 (fun x y => if 4 ≤ x ∧ 4 ≤ y then 255 else 0)
  ++ [(0x2028, 255)])

theorem test_score_corner : ends (exec .score scoreState) (fun t =>
    Memory.read t.mem 0x2028 = 201 && !t.status.err) = true := by decide +kernel

theorem test_score_threshold : ends
    (exec .score { scoreState with regs := { scoreState.regs with harrisT := 19924736 } }) (fun t =>
    Memory.read t.mem 0x2028 = 0 && !t.status.err) = true := by decide +kernel

/-! ## EXTRACT (42_nms_extract R165, R174) -/

/-- A 6×6 marks raster with region 2 .. 3. -/
def extractState (f : Nat → Nat → Nat) : State :=
  { raster 6 6 2 (cells 0x2000 6 6 6 f) with freeCount := 7 }

/-- One mark of 100 at (2, 2). -/
def oneMark (x y : Nat) : Nat := if x = 2 ∧ y = 2 then 100 else 0

theorem test_extract_one : ends (exec .extract (extractState oneMark)) (fun t =>
    wordAt t.mem 0x3000 = 0x64002002 && t.regs.outCount = 1 && t.result = 1 && !t.status.err) = true := by
  decide +kernel

theorem test_extract_equal_neighbours : ends (exec .extract (extractState fun x y => if x = 2 ∧ y ≤ 3 ∧ 2 ≤ y then 9 else 0))
    (fun t => t.regs.outCount = 0 && !t.status.err) = true := by decide +kernel

/-! ## The bucketed commands (42_nms_extract R169, 43_feature_grid R192) -/

/-- An 8×8 marks raster, region 2 .. 5, with survivors at (2, 2), (4, 2) and (2, 4), in cells of side 2^b. -/
def bucketState (b k : Word) : State :=
  let s := raster 8 8 2 (cells 0x2000 8 8 8 fun x y =>
    if x = 2 ∧ y = 2 then 30 else if x = 4 ∧ y = 2 then 20 else if x = 2 ∧ y = 4 then 10 else 0)
  { s with regs := { s.regs with logBkt := b, bktK := k } }

theorem test_extractBkt_weakest_first : ends (exec .extractBkt (bucketState 2 2)) (fun t =>
    wordAt t.mem 0x3000 = 0x14004002 && wordAt t.mem 0x3004 = 0x1E002002 && t.regs.outCount = 2 &&
    !t.status.gridValid && !t.status.err) = true := by decide +kernel

theorem test_extractBkt_column_order : ends (exec .extractBkt (bucketState 1 1)) (fun t =>
    wordAt t.mem 0x3000 = 0x1E002002 && wordAt t.mem 0x3004 = 0x14004002 && wordAt t.mem 0x3008 = 0x0A002004 &&
    t.result = 3) = true := by decide +kernel

theorem test_gridBucket_cells : ends (exec .gridBucket (bucketState 1 1)) (fun t =>
    t.grid.buckets = [[0x1E002002], [0x14004002], [0x0A002004], []] && t.gridDim = 0x00020002 && t.gridTotal = 3 &&
    t.status.gridValid && !t.status.indexValid && t.result = 0) = true := by decide +kernel

theorem test_gridBucket_keeps_strongest : ends (exec .gridBucket (bucketState 2 2)) (fun t =>
    t.grid.buckets = [[0x14004002, 0x1E002002]] && t.gridTotal = 2) = true := by decide +kernel

/-! ## The grid commands (43_feature_grid R197, R201, R204) -/

/-- The grid of `bucketState 1 1`. -/
def tgrid : Grid := ⟨8, 8, 2, 1, 1, 2, 2, [[0x1E002002], [0x14004002], [0x0A002004], []]⟩

/-- A state that holds it, with an index from 5. -/
def gridState : State :=
  { raster 8 8 2 [] with
    status := { Status.zero with gridValid := true, indexValid := true }
    grid := tgrid
    gridDim := 0x00020002
    gridTotal := 3
    index := [5, 6, 7, 8] }

theorem test_gridReduce_target : ends
    (exec .gridReduce { gridState with regs := { gridState.regs with redMax := 4, redStep := 1, redTarget := 2 } })
    (fun t => t.grid.buckets = [[0x1E002002], [0x14004002], [], []] && t.result = 2 && t.gridTotal = 2 &&
      !t.status.indexValid) = true := by decide +kernel

theorem test_gridReduce_step_zero : ends (exec .gridReduce gridState)
    (fun t => failed .badParam 0x060 t && t.gridTotal = 3 && t.status.indexValid) = true := by decide +kernel

theorem test_gridIndex_starts : ends
    (exec .gridIndex { gridState with regs := { gridState.regs with outCount := 5 }, index := [] })
    (fun t => t.index = [5, 6, 7, 8] && wordAt t.mem 0x3014 = 0x1E002002 && wordAt t.mem 0x301C = 0x0A002004 &&
      t.regs.outCount = 8 && t.result = 3 && t.status.indexValid) = true := by decide +kernel

theorem test_gridQuery_area : ends
    (exec .gridQuery { gridState with regs := { gridState.regs with qX := 3, qY := 1, qR := 1 } })
    (fun t => wordAt t.mem 0x3000 = 5 && wordAt t.mem 0x3004 = 6 && t.regs.outCount = 2 && t.result = 2) = true := by
  decide +kernel

theorem test_gridQuery_outside : ends
    (exec .gridQuery { gridState with regs := { gridState.regs with qX := BitVec.ofInt 32 (-50), qY := 2, qR := 3 } })
    (fun t => t.regs.outCount = 0 && t.status.done && !t.status.err) = true := by decide +kernel

/-! ## CENTROID (44_orb_centroid R228) -/

/-- A 31×31 image, keypoint (15, 15), pixel (20, 12) = 255: the offset (5, −3). -/
def centroidState : State :=
  let s := raster 31 31 0 [(0x1188, 255), (0x4000, 0x0F), (0x4001, 0xF0)]
  { s with regs := { s.regs with inBase := 0x4000, inCount := 1 } }

theorem test_centroid_one_pixel : ends (exec .centroid centroidState) (fun t =>
    wordAt t.mem 0x3000 = 1275 && wordAt t.mem 0x3004 = 0 && wordAt t.mem 0x3010 = 0xFFFFFD03 &&
    t.regs.outCount = 8 && t.result = 8 && !t.status.err) = true := by decide +kernel

theorem test_centroid_bounds : ends
    (exec .centroid { centroidState with regs := { centroidState.regs with width := 30 } }) (fun t =>
    failed .kpBounds 0 t && t.regs.outCount = 0) = true := by decide +kernel

/-! ## ATAN2 (45_orb_atan2 R243) -/

/-- One pair, (mx, my), at 0x4000. -/
def pairState (mx my : Word) : State :=
  { ts with
    mem := Memory.writeBytes (Memory.writeBytes [] 0x4000 (wordBytes mx)) 0x4010 (wordBytes my)
    regs := { ts.regs with inBase := 0x4000, inCount := 1, outBase := 0x3001, outCap := 4 } }

theorem test_atan2_first_quadrant : ends (exec .atan2 (pairState 3 4)) (fun t =>
    Memory.read t.mem 0x3001 = 4 && t.regs.outCount = 1 && t.result = 1) = true := by decide +kernel

theorem test_atan2_fourth_quadrant : ends (exec .atan2 (pairState 1275 0xFFFFFD03)) (fun t =>
    Memory.read t.mem 0x3001 = 27 && !t.status.err) = true := by decide +kernel

/-! ## DESCRIBE (46_orb_describe R260) -/

/-- 32 tests that compare (x + 1, y) with (x − 1, y), and back, by turns, for bins 0 .. 3. -/
def testRom : List (List Probe) :=
  List.replicate 4 ((List.replicate 16 [Probe.mk 1 0 (-1) 0, Probe.mk (-1) 0 1 0]).flatMap fun l => l)

/-- Keypoint (15, 15) with bin `r` on an image that rises with x. -/
def describeState (high : Byte) : State :=
  let s := raster 31 31 0 [(0x11DF, 14), (0x11E1, 16), (0x4000, 0x0F), (0x4001, 0xF0), (0x4003, high)]
  { s with
    params := { tp with rotPattern := testRom }
    regs := { s.regs with inBase := 0x4000, inCount := 1, descN := 1 } }

theorem test_describe_ramp : ends (exec .describe (describeState 3)) (fun t =>
    wordAt t.mem 0x3000 = 0xAAAAAAAA && t.regs.outCount = 1 && t.result = 1 && !t.status.err) = true := by
  decide +kernel

theorem test_describe_bad_bin : ends (exec .describe (describeState 0x1F)) (fun t =>
    failed .badBin 0 t && t.regs.outCount = 0) = true := by decide +kernel

/-! ## From reset (70_reset_and_hazards R303) -/

theorem test_reset_then_detect : ends (step (State.reset.withFetchWord 32 0x01)) (fun t =>
    failed .badParam 0x024 t) = true := by decide +kernel

theorem test_reset_then_atan2 : ends (step (State.reset.withFetchWord 32 0x0A)) (fun t =>
    t.status.done && !t.status.err && t.result = 0) = true := by decide +kernel

/-! ## Keypoint helpers (30_encoding R85, R89) -/

theorem test_pack_example : pack 100 10 10 = 0x6400A00A := by decide
theorem test_scale_half : scale 0x6400A014 0x00008000 = 0x6400500A := by decide

/-! ## Insertion (42_nms_extract R175 (3)) -/

theorem test_insertion_example :
    [50, 20, 70, 60, 10, 80].foldl (fun b w => bucketInsert 3 w b) ([] : Bucket) = [60, 70, 80] := by decide

/-! ## Witnesses: the hypotheses of each statement can be met -/

/-- The host's next act is `e`. -/
def doing (s : State) (e : HostEvent) : State := { s with inputs := [e] }

/-- A property of the state after `o`, as a next state. -/
theorem next_of_ends {o : Host.Outcome State Fault Refusal} (h : ends o (fun _ => true) = true) : ∃ t, o = .next t :=
  let ⟨t, ht, _⟩ := ends_next h
  ⟨t, ht⟩

theorem witness_RejectedWordsRaiseBadOpcode :
    ∀ v ∈ ([0x00000000, 0x0000000C, 0x000000FF, 0x00000100, 0x0000010B, 0xFFFFFFFF] : List Word),
      Ready (doing ts (hostWr .cmd v)) ∧ (doing ts (hostWr .cmd v)).inputs = hostWr .cmd v :: [] ∧
      (v.toNat / 256 ≠ 0 ∨ v.toNat % 256 = 0 ∨ 0x0B < v.toNat % 256) := by
  intro v hv
  simp only [List.mem_cons, List.not_mem_nil, or_false] at hv
  rcases hv with rfl | rfl | rfl | rfl | rfl | rfl <;> exact ⟨by decide, rfl, by decide⟩

theorem witness_StepRunsTheDecodedCommand :
    (Ready (doing ts (hostWr .cmd 0x01)) ∧ (doing ts (hostWr .cmd 0x01)).inputs = hostWr .cmd 0x01 :: [] ∧
      decode 0x01 = .ok .detect) ∧
    (Ready (doing ts (hostWr .cmd 0x0B)) ∧ (doing ts (hostWr .cmd 0x0B)).inputs = hostWr .cmd 0x0B :: [] ∧
      decode 0x0B = .ok .describe) := ⟨⟨by decide, rfl, rfl⟩, by decide, rfl, rfl⟩

/-- `ts` with an error shown. -/
def errState : State := { ts with status := { ts.status with err := true, done := true, errCode := .bus } }

/-- `ts` with a command running. -/
def busyState : State := { ts with status := { ts.status with busy := true } }

theorem witness_DroppedAndIgnoredRegisterAccesses :
    (errState.inReset = false ∧ errState.status.err = true ∧
      (doing errState (hostWr .cmd 1)).inputs = hostWr .cmd 1 :: []) ∧
    (busyState.inReset = false ∧ busyState.status.busy = true ∧
      (doing busyState (hostWr (.param .qR) 1)).inputs = hostWr (.param .qR) 1 :: []) ∧
    (∀ r ∈ [RegName.errInfo, .result, .gridDim, .gridTotal, .cfgMaxK, .cfgMaxBuckets],
      ts.inReset = false ∧ ts.status.busy = false ∧ (doing ts (hostWr r 1)).inputs = hostWr r 1 :: []) ∧
    (∀ a ∈ [(AccessWidth.w8, (0x10 : BitVec 8)), (.w16, 0x10), (.w64, 0x10), (.w32, 0x11), (.w32, 0x7C), (.w32, 0xFC)],
      (a.1 ≠ AccessWidth.w32 ∨ a.2.toNat % 4 ≠ 0 ∨ 0x7C ≤ a.2.toNat) ∧
      (doing ts (.regWrite a.1 a.2 1)).inputs = .regWrite a.1 a.2 1 :: [] ∧
      (doing ts (.regRead a.1 a.2)).inputs = .regRead a.1 a.2 :: []) := by decide

theorem witness_RegisterReadsShowTheState :
    (∀ c ∈ [((0x00 : BitVec 8), ts.cmd), (0x04, ts.status.word), (0x08, ts.errInfo), (0x0C, ts.result),
        (0x6C, ts.gridDim), (0x70, ts.gridTotal), (0x74, ts.params.maxK), (0x78, ts.params.maxBuckets)],
      (doing ts (.regRead .w32 c.1)).inReset = false ∧ (doing ts (.regRead .w32 c.1)).status.busy = false ∧
      (doing ts (.regRead .w32 c.1)).inputs = .regRead .w32 c.1 :: [] ∧
      (c.1 = 0x00 ∧ c.2 = ts.cmd ∨ c.1 = 0x04 ∧ c.2 = ts.status.word ∨ c.1 = 0x08 ∧ c.2 = ts.errInfo ∨
        c.1 = 0x0C ∧ c.2 = ts.result ∨ c.1 = 0x6C ∧ c.2 = ts.gridDim ∨ c.1 = 0x70 ∧ c.2 = ts.gridTotal ∨
        c.1 = 0x74 ∧ c.2 = ts.params.maxK ∨ c.1 = 0x78 ∧ c.2 = ts.params.maxBuckets)) ∧
    ∀ p ∈ ParamReg.all, (doing ts (.regRead .w32 p.offset)).inputs = .regRead .w32 p.offset :: [] := by
  refine ⟨?_, fun p _ => rfl⟩
  simp only [List.forall_mem_cons, List.not_mem_nil, false_imp_iff, implies_true, and_true]
  exact ⟨by decide, by decide, by decide, by decide, by decide, by decide, by decide, by decide⟩

theorem witness_StatusRegisterFieldsAndClears :
    errState.inReset = false ∧ errState.status.busy = false ∧
    (doing errState (hostWr .status 0x0E)).inputs = hostWr .status 0x0E :: [] := by decide

theorem witness_ClearingErrLetsTheNextCommandRun :
    ({ errState with inputs := [hostWr .status 0x00000006, hostCmd .atan2] } : State).inputs =
      hostWr .status 0x00000006 :: hostCmd .atan2 :: [] ∧ errState.inReset = false ∧
    errState.status.busy = false := by decide

theorem witness_ParameterRegistersKeepWhatIsWritten :
    ∀ p ∈ ParamReg.all, ts.inReset = false ∧ ts.status.busy = false ∧
      ({ ts with inputs := [hostWr (.param p) 0xFFFFFFFF, hostRd (.param p)] } : State).inputs =
        hostWr (.param p) 0xFFFFFFFF :: hostRd (.param p) :: [] := by decide

theorem witness_HostMemoryWordsAreLittleEndian :
    ∀ a ∈ ([0, 1, 0xFFFFFFFC] : List Word), ts.status.busy = false ∧ a.toNat + 4 ≤ 4294967296 ∧
      ({ ts with inputs := [.memWriteWord a 7, .memReadWord a] } : State).inputs =
        .memWriteWord a 7 :: .memReadWord a :: [] := by
  intro a ha
  simp only [List.mem_cons, List.not_mem_nil, or_false] at ha
  rcases ha with rfl | rfl | rfl <;> exact ⟨rfl, by decide, rfl⟩

theorem witness_HostMemoryWordsAreLittleEndian_bytes :
    ∀ a ∈ ([0, 0x4001, 0xFFFFFFFF] : List Word), ts.status.busy = false ∧
      ({ ts with inputs := [.memWriteByte a 0xFF, .memReadByte a] } : State).inputs =
        .memWriteByte a 0xFF :: .memReadByte a :: [] ∧
      (doing ts (.memReadByte a)).inputs = .memReadByte a :: [] := fun _ _ => ⟨rfl, rfl, rfl⟩

theorem witness_HostMemoryWordsAreLittleEndian_reads :
    (0xFFFFFFFC : Word).toNat + 4 ≤ 4294967296 ∧
    (doing centroidState (.memReadWord 0xFFFFFFFC)).inputs = .memReadWord 0xFFFFFFFC :: [] ∧
    centroidState.status.busy = false := ⟨by decide, rfl, rfl⟩

theorem witness_ResetEvent :
    (doing ts .resetAssert).inputs = .resetAssert :: [] ∧
    (doing ts.assertReset (.regRead .w32 0x74)).inReset = true ∧
    (doing ts.assertReset (.regRead .w32 0x74)).inputs = .regRead .w32 0x74 :: [] ∧
    (doing ts.assertReset (.regWrite .w32 0x10 9)).inReset = true ∧
    (doing ts.assertReset (.regWrite .w32 0x10 9)).inputs = .regWrite .w32 0x10 9 :: [] ∧
    (doing ts.assertReset .resetRelease).inReset = true ∧
    (doing ts.assertReset .resetRelease).inputs = .resetRelease :: [] := by decide

theorem witness_ResetDuringACommandTearsItsWrites :
    Ready (doing (pairState 3 4) (.resetDuringCommand 0x0A)) ∧
    (doing (pairState 3 4) (.resetDuringCommand 0x0A)).inputs = .resetDuringCommand 0x0A :: [] ∧
    ∃ t, runWord 0x0A { doing (pairState 3 4) (.resetDuringCommand 0x0A) with
      inputs := []
      cmd := 0x0A
      status := { (pairState 3 4).status with done := false, busy := true }
      result := 0
      errInfo := 0 } = .next t :=
  ⟨by decide, by decide, next_of_ends (by decide +kernel)⟩

/-! ### Invariants -/

theorem gridState_gridOk : GridOk gridState := by
  refine ⟨fun _ => ⟨by unfold GeometryOk; decide, fun i j hi hj => ?_, by decide, by decide⟩, fun h => by cases h⟩
  have hi' : i < 2 := hi
  have hj' : j < 2 := hj
  have h1 : i = 0 ∨ i = 1 := by omega
  have h2 : j = 0 ∨ j = 1 := by omega
  rcases h1 with rfl | rfl <;> rcases h2 with rfl | rfl <;>
    (refine ⟨by decide, by decide, fun kp hkp => ?_⟩
     first
     | exact absurd hkp List.not_mem_nil
     | (rcases List.mem_singleton.mp hkp with rfl; decide))

theorem gridState_indexOk : IndexOk gridState := by
  intro _
  refine ⟨5, fun q hq => ?_⟩
  have hq' : q < 4 := hq
  have h : q = 0 ∨ q = 1 ∨ q = 2 ∨ q = 3 := by omega
  rcases h with rfl | rfl | rfl | rfl <;> decide

theorem witness_StepKeepsMemoryCanonical :
    MemoryOk (doing (bucketState 1 1) (hostCmd .extract)) ∧
    ∃ t, step (doing (bucketState 1 1) (hostCmd .extract)) = .next t :=
  ⟨by unfold MemoryOk; decide, next_of_ends (by decide +kernel)⟩

theorem witness_StepKeepsStatusLegal :
    StatusOk (doing gridState (hostCmd .gridIndex)) ∧ ∃ t, step (doing gridState (hostCmd .gridIndex)) = .next t :=
  ⟨by unfold StatusOk; decide, next_of_ends (by decide +kernel)⟩

/-- `gridState` with a legal GRID_REDUCE. -/
def reduceState : State :=
  { gridState with regs := { gridState.regs with redMax := 4, redStep := 1, redTarget := 2 } }

theorem witness_StepKeepsTheGridLegal :
    GridOk (doing reduceState (hostCmd .gridReduce)) ∧
    ∃ t, step (doing reduceState (hostCmd .gridReduce)) = .next t :=
  ⟨gridState_gridOk, next_of_ends (by decide +kernel)⟩

theorem witness_StepKeepsTheIndexLegal :
    IndexOk (doing gridState (hostCmd .gridIndex)) ∧ ∃ t, step (doing gridState (hostCmd .gridIndex)) = .next t :=
  ⟨gridState_indexOk, next_of_ends (by decide +kernel)⟩

theorem witness_StepKeepsTheParameters : ∃ t, step (doing gridState (hostCmd .gridIndex)) = .next t :=
  next_of_ends (by decide +kernel)

/-- `centroidState` with a disk of few pixels. -/
def smallDiskState : State := { centroidState with params := { tp with diskUmax := 15 :: List.replicate 15 0 } }

/-! ### Frames -/

theorem witness_CommandsEndOrFaultOnOverlap :
    ∀ i ∈ [Instr.gridBucket, .gridReduce, .gridIndex, .gridQuery], isGridCommand i = true := by decide

/-- A command faulted on its footprints. -/
def overlaps (o : Host.Outcome State Fault Refusal) : Bool :=
  match o with
  | .next _ => false
  | .fault f => decide (f = .footprintOverlap)
  | .refused _ => false

theorem witness_EveryCommandEndsIdle : ∃ t, exec .gridQuery gridState = .next t := next_of_ends (by decide +kernel)

theorem witness_MarkAndGridCommandsFrame :
    (∃ t, exec .detect (detectState 9) = .next t) ∧ (∃ t, exec .score scoreState = .next t) ∧
    (∃ t, exec .gridBucket (bucketState 1 1) = .next t) ∧ (∃ t, exec .gridReduce reduceState = .next t) :=
  ⟨next_of_ends (by decide +kernel), next_of_ends (by decide +kernel), next_of_ends (by decide +kernel),
    next_of_ends (by decide +kernel)⟩

theorem witness_AppendingCommandsFrame :
    (elementSize .extract = some 4 ∧ ∃ t, exec .extract (bucketState 1 1) = .next t) ∧
    (elementSize .extractBkt = some 4 ∧ ∃ t, exec .extractBkt (bucketState 1 1) = .next t) ∧
    (elementSize .gridIndex = some 4 ∧ ∃ t, exec .gridIndex gridState = .next t) ∧
    (elementSize .gridQuery = some 4 ∧ ∃ t, exec .gridQuery gridState = .next t) ∧
    (elementSize .centroid = some 4 ∧ ∃ t, exec .centroid smallDiskState = .next t) ∧
    (elementSize .atan2 = some 1 ∧ ∃ t, exec .atan2 (pairState 3 4) = .next t) ∧
    (elementSize .describe = some 4 ∧ ∃ t, exec .describe (describeState 3) = .next t) :=
  ⟨⟨rfl, next_of_ends (by decide +kernel)⟩, ⟨rfl, next_of_ends (by decide +kernel)⟩,
    ⟨rfl, next_of_ends (by decide +kernel)⟩, ⟨rfl, next_of_ends (by decide +kernel)⟩,
    ⟨rfl, next_of_ends (by decide +kernel)⟩, ⟨rfl, next_of_ends (by decide +kernel)⟩,
    ⟨rfl, next_of_ends (by decide +kernel)⟩⟩

theorem witness_GridStateFrame :
    (∃ t, exec .extract (bucketState 1 1) = .next t) ∧ (∃ t, exec .gridQuery gridState = .next t) ∧
    (∃ t, exec .gridIndex gridState = .next t) ∧ (∃ t, exec .gridReduce reduceState = .next t) ∧
    (∃ t, exec .gridBucket (bucketState 1 1) = .next t) :=
  ⟨next_of_ends (by decide +kernel), next_of_ends (by decide +kernel), next_of_ends (by decide +kernel),
    next_of_ends (by decide +kernel), next_of_ends (by decide +kernel)⟩

/-! ### Errors -/

/-- The hypotheses of `FailedParameterCheckRaisesBadParam`. -/
abbrev Fails (i : Instr) (s : State) (f : ParamRegs → ParamRegs) (info : Word) : Prop :=
  missingGrid { s with regs := f s.regs } i = none ∧
    firstFailed (paramChecks s.params (f s.regs) i) = some info

theorem witness_FailedParameterCheck_raster :
    ∀ i ∈ [Instr.detect, .score, .extract, .extractBkt, .gridBucket, .centroid, .describe],
      Fails i (bucketState 1 1) (fun r => { r with width := 4097 }) 0x01C ∧
      Fails i (bucketState 1 1) (fun r => { r with height := 4097 }) 0x020 ∧
      Fails i (bucketState 1 1) (fun r => { r with stride := 7 }) 0x018 := by decide

theorem witness_FailedParameterCheck_border :
    Fails .detect (detectState 9) (fun r => { r with border := 2 }) 0x024 ∧
    Fails .detect (detectState 9) (fun r => { r with fastT := 256 }) 0x028 ∧
    Fails .score scoreState (fun r => { r with border := 3 }) 0x024 ∧
    ∀ i ∈ [Instr.extract, .extractBkt, .gridBucket],
      Fails i (bucketState 1 1) (fun r => { r with border := 1 }) 0x024 := by decide

theorem witness_FailedParameterCheck_buckets :
    (∀ i ∈ [Instr.extractBkt, .gridBucket],
      Fails i (bucketState 1 1) (fun r => { r with logBkt := 0 }) 0x030 ∧
      Fails i (bucketState 1 1) (fun r => { r with logBkt := 13 }) 0x030 ∧
      Fails i (bucketState 1 1) (fun r => { r with bktK := 0 }) 0x034 ∧
      Fails i (bucketState 1 1) (fun r => { r with bktK := 5 }) 0x034) ∧
    Fails .extractBkt (bucketState 1 1) (fun r => { r with width := 38, stride := 38 }) 0x030 ∧
    Fails .gridBucket (bucketState 1 1) (fun r => { r with width := 21, stride := 21 }) 0x030 := by decide

theorem witness_FailedParameterCheck_arrays :
    (∀ i ∈ [Instr.extract, .extractBkt, .gridIndex, .centroid],
      Fails i { bucketState 1 1 with status := gridState.status } (fun r => { r with outBase := 0x3002 }) 0x040 ∧
      Fails i { bucketState 1 1 with status := gridState.status } (fun r => { r with outCount := 17 }) 0x048) ∧
    (∀ i ∈ [Instr.centroid, .atan2, .describe],
      Fails i (describeState 3) (fun r => { r with inBase := 0x4001 }) 0x038) ∧
    Fails .atan2 (pairState 3 4) (fun r => { r with outCount := 5 }) 0x048 := by decide

theorem witness_FailedParameterCheck_rest :
    Fails .gridReduce reduceState (fun r => { r with redStep := 0 }) 0x060 ∧
    Fails .gridReduce reduceState (fun r => { r with redMin := 5 }) 0x058 ∧
    Fails .gridQuery gridState (fun r => { r with qR := 0xFFFFFFFF }) 0x054 ∧
    Fails .gridQuery gridState (fun r => { r with outBase := 0x3001 }) 0x040 ∧
    Fails .gridQuery gridState (fun r => { r with outCount := 17 }) 0x048 ∧
    Fails .describe (describeState 3) (fun r => { r with descN := 0 }) 0x068 ∧
    Fails .describe (describeState 3) (fun r => { r with descN := 9 }) 0x068 ∧
    Fails .describe (describeState 3) (fun r => { r with outBase := 0x3003 }) 0x040 ∧
    Fails .describe (describeState 3) (fun r => { r with outCount := 17 }) 0x048 := by decide

theorem witness_MissingGridRaisesNoGrid :
    ts.status.gridValid = false ∧
    ({ gridState with status := { gridState.status with indexValid := false } } : State).status.gridValid = true ∧
    ({ gridState with status := { gridState.status with indexValid := false } } : State).status.indexValid = false := by
  decide

/-- `detectState 9` where the platform refuses the marks. -/
def refusedState : State :=
  { detectState 9 with params := { tp with admitRanges := [(0, 0x1FFF)], rotPattern := shapedRom } }

theorem witness_BusReportsARefusedAddress :
    refusedState.params.wf = true ∧ refusedState.status.err = false ∧
    ∃ t, exec .detect refusedState = .next t ∧ failed .bus 0x2018 t = true :=
  ⟨by decide +kernel, by decide, ends_next (by decide +kernel)⟩

theorem witness_CommandsRaiseOnlyTheirErrors :
    (describeState 0x1F).status.err = false ∧
    ∃ t, exec .describe (describeState 0x1F) = .next t ∧ failed .badBin 0 t = true :=
  ⟨by decide, ends_next (by decide +kernel)⟩

theorem witness_LostGridsReadAsNoGrid :
    (∃ t, exec .gridBucket { bucketState 1 1 with params := { tp with admitRanges := [] } } = .next t ∧
      (t.status.err && decide (t.status.errCode = .bus)) = true) ∧
    (bucketState 1 1).status.err = false ∧ Legal .extractBkt (bucketState 1 1) ∧
    ∃ t, exec .extractBkt (bucketState 1 1) = .next t :=
  ⟨ends_next (by decide +kernel), by decide, by decide, next_of_ends (by decide +kernel)⟩

/-- Memory is admitted up to 0x3001 only. -/
def shortState : State := { bucketState 1 1 with params := { tp with admitRanges := [(0, 0x3001)], rotPattern := shapedRom } }

theorem witness_BusReportsTheLowestByte :
    shortState.params.wf = true ∧ shortState.status.err = false ∧
    ∃ t, exec .extract shortState = .next t ∧ failed .bus 0x3002 t = true :=
  ⟨by decide +kernel, by decide, ends_next (by decide +kernel)⟩

/-- The hypotheses of the second clause of `BusReportsARefusedAddress` that can be decided. -/
abbrev RefusedAt (i : Instr) (s : State) (a : Int) : Prop :=
  Legal i s ∧ missingGrid s i = none ∧ s.regs.outCount.toNat + wholeOutput s i ≤ s.regs.outCap.toNat ∧
    a ∈ wholeReads s i ++ statedWrites s i ∧ admitted s.params a = false ∧ ends (exec i s) (fun _ => true) = true

/-- The state where the platform refuses one address. -/
def refusing (s : State) (a : Nat) : State :=
  { s with params := { s.params with admitRanges := [(0, a - 1), (a + 1, 0xFFFF)] } }

theorem witness_BusReportsARefusedAddress_rasters :
    RefusedAt .detect (refusing (detectState 9) 0x201D) 0x201D ∧ RefusedAt .score (refusing scoreState 0x1028) 0x1028 ∧
    RefusedAt .extract (refusing (bucketState 1 1) 0x2009) 0x2009 ∧
    RefusedAt .extractBkt (refusing (bucketState 1 1) 0x300B) 0x300B ∧
    RefusedAt .gridBucket (refusing (bucketState 1 1) 0x2036) 0x2036 := by decide +kernel

theorem witness_BusReportsARefusedAddress_grid :
    RefusedAt .gridIndex (refusing gridState 0x300B) 0x300B ∧ GridOk (refusing gridState 0x300B) :=
  ⟨by decide +kernel, gridState_gridOk⟩

theorem witness_BusReportsARefusedAddress_inputs :
    (RefusedAt .centroid (refusing smallDiskState 0x301F) 0x301F ∧
      ∀ k, k < smallDiskState.regs.inCount.toNat → InMargin (refusing smallDiskState 0x301F) k) ∧
    RefusedAt .atan2 (refusing (pairState 3 4) 0x4013) 0x4013 ∧
    (RefusedAt .describe (refusing (describeState 3) 0x11E1) 0x11E1 ∧
      ∀ k, k < (describeState 3).regs.inCount.toNat → Describable (refusing (describeState 3) 0x11E1) k) := by
  decide +kernel

theorem witness_BusIsTheOnlyWayPastARefusal :
    (bucketState 1 1).status.err = false ∧
    ∃ t, exec .extract (bucketState 1 1) = .next t ∧ (!t.status.err && decide (t.regs.outCount.toNat = 0 + 3)) = true :=
  ⟨by decide, ends_next (by decide +kernel)⟩

/-- The same state with room for `n` elements. -/
def capped (s : State) (n : Word) : State := { s with regs := { s.regs with outCap := n } }

/-- Two keypoints, the second with the given two bytes. -/
def twoState (x high : Byte) : State :=
  let s := raster 31 31 0 [(0x4000, 0x0F), (0x4001, 0xF0), (0x4003, 0x1D), (0x4004, 0x0F), (0x4005, x), (0x4007, high)]
  { s with
    params := { tp with rotPattern := testRom }
    regs := { s.regs with inBase := 0x4000, inCount := 2, descN := 1 } }

/-- `gridState` with a query that finds two features. -/
def queryState : State := { gridState with regs := { gridState.regs with qX := 3, qY := 1, qR := 1 } }

/-- The hypotheses of `CommandsStopWhenTheOutputIsFull` that can be decided. -/
abbrev FullAt (i : Instr) (e n : Nat) (s : State) : Prop :=
  elementSize i = some e ∧ missingGrid s i = none ∧ Legal i s ∧ AllAdmitted s.params (wholeReads s i) ∧
    s.regs.outCount.toNat + n = s.regs.outCap.toNat ∧ n < wholeOutput s i ∧
    AllAdmitted s.params (outAddrs s.regs e n) ∧ Apart (wholeReads s i) (statedWrites s i)

theorem witness_CommandsStopWhenTheOutputIsFull_walk :
    FullAt .extract 4 2 (capped (bucketState 1 1) 2) ∧ FullAt .extractBkt 4 2 (capped (bucketState 1 1) 2) := by
  decide +kernel

theorem witness_CommandsStopWhenTheOutputIsFull_grid :
    (FullAt .gridIndex 4 2 (capped gridState 2) ∧ GridOk (capped gridState 2)) ∧
    (FullAt .gridQuery 4 1 (capped queryState 1) ∧ GridOk (capped queryState 1)) :=
  ⟨⟨by decide +kernel, gridState_gridOk⟩, by decide +kernel, gridState_gridOk⟩

theorem witness_CommandsStopWhenTheOutputIsFull_inputs :
    FullAt .atan2 1 0 (capped (pairState 3 4) 0) ∧
    (FullAt .centroid 4 3 (capped smallDiskState 3) ∧
      ∀ k, k < (capped smallDiskState 3).regs.inCount.toNat → InMargin (capped smallDiskState 3) k) ∧
    (FullAt .describe 4 1 (capped (twoState 0xF0 0x03) 1) ∧
      ∀ k, k < (capped (twoState 0xF0 0x03) 1).regs.inCount.toNat →
        Describable (capped (twoState 0xF0 0x03) 1) k) := by decide +kernel

theorem test_full_gridIndex : ends (exec .gridIndex (capped gridState 2)) (fun t =>
    failed .outFull 2 t && wordAt t.mem 0x3004 = 0x14004002 && !t.status.indexValid && t.result = 2) = true := by
  decide +kernel

/-- Five keypoints, the last at x = 14, and a disk of few pixels. -/
def fiveState : State :=
  let s := raster 31 31 0 ((List.range 5).flatMap fun k =>
    [(0x4000 + 4 * k, 0x0F), (0x4001 + 4 * k, if k = 4 then 0xE0 else 0xF0)])
  { s with
    params := { tp with diskUmax := 15 :: List.replicate 15 0 }
    regs := { s.regs with inBase := 0x4000, inCount := 5 } }

theorem witness_CentroidStopsAtABadKeypoint :
    (Legal .centroid fiveState ∧ 4 < fiveState.regs.inCount.toNat ∧ (∀ j, j < 4 → InMargin fiveState j) ∧
      ¬ InMargin fiveState 4) ∧
    AllAdmitted fiveState.params (centroidReads fiveState 4 ++ inputAddrs fiveState.regs [4]) ∧
    Room fiveState 4 (8 * (4 / 4)) ∧
    Apart (statedReads fiveState .centroid ++ centroidReads fiveState 4) (statedWrites fiveState .centroid) := by
  decide +kernel

/-- `twoState` with an admissible ROM. -/
def romState (x high : Byte) : State := { twoState x high with params := { tp with rotPattern := shapedRom } }

theorem witness_DescribeStopsAtABadKeypoint :
    (∀ s ∈ [romState 0xE0 0x03, romState 0xF0 0x1E],
      romWf s.params.rotPattern = true ∧ Legal .describe s ∧ 1 < s.regs.inCount.toNat ∧
      (∀ j, j < 1 → InMargin s j ∧ (kpOrient (inputWord s j)).toNat < 30) ∧
      AllAdmitted s.params (describeReads s 1 ++ inputAddrs s.regs [1]) ∧
      Room s 4 (s.regs.descN.toNat * 1) ∧
      Apart (statedReads s .describe) (statedWrites s .describe)) ∧
    ¬ InMargin (romState 0xE0 0x03) 1 ∧ InMargin (romState 0xF0 0x1E) 1 ∧
    30 ≤ (kpOrient (inputWord (romState 0xF0 0x1E) 1)).toNat := by decide +kernel

/-! ### Overlapping footprints (20_memory R67) -/

/-- The state with another OUT_BASE. -/
def outAt (s : State) (a : Word) : State := { s with regs := { s.regs with outBase := a } }

/-- The state with another IMG_BASE. -/
def imgAt (s : State) (a : Word) : State := { s with regs := { s.regs with imgBase := a } }

/-- The hypotheses of `OverlappingFootprintsFault`. -/
abbrev OverlapsAt (i : Instr) (s : State) (a : Int) : Prop :=
  Legal i s ∧ AllAdmitted s.params (decidingReads s i) ∧ a ∈ statedReads s i ∧ a ∈ statedWrites s i

theorem witness_OverlappingFootprintsFault_rasters :
    OverlapsAt .detect (imgAt (detectState 9) 0x1FFF) 0x201C ∧ OverlapsAt .score (imgAt scoreState 0x2000) 0x2028 := by
  decide +kernel

theorem witness_OverlappingFootprintsFault_arrays :
    OverlapsAt .extract (outAt (bucketState 1 1) 0x2008) 0x2009 ∧
    OverlapsAt .extractBkt (outAt (bucketState 1 1) 0x2008) 0x2009 ∧
    OverlapsAt .centroid (outAt fiveState 0x4010) 0x4010 ∧ OverlapsAt .atan2 (outAt (pairState 3 4) 0x4013) 0x4013 ∧
    OverlapsAt .describe (outAt (twoState 0xF0 0x03) 0x11E0) 0x11E1 := by decide +kernel

/-- The first pixel of the disk of the only keypoint is the last byte of its group's output. -/
theorem witness_OverlappingFootprintsFault_disk :
    let s := outAt smallDiskState 0x1164
    Legal .centroid s ∧ 0 < s.regs.inCount.toNat ∧ (∀ j, j ≤ 0 → InMargin s j) ∧
    AllAdmitted s.params (centroidReads s 0 ++ inputAddrs s.regs [0]) ∧ Room s 4 (8 * (0 / 4)) ∧
    (0x1183 : Int) ∈ diskOf s 0 ∧ (0x1183 : Int) ∈ statedWrites s .centroid := by decide +kernel

/-- The pixels of a keypoint without its margin count, and so do output elements that do not fit (46_orb_describe R256). -/
theorem test_overlap_describe_unprocessed :
    overlaps (exec .describe (outAt (twoState 0xA0 0x03) 0x11D4)) = true ∧
    overlaps (exec .describe (outAt (capped (twoState 0xF0 0x03) 1) 0x3FFC)) = true := by decide +kernel

/-- A byte past OUT_CAP meets the input words (45_orb_atan2 R239). -/
theorem test_overlap_atan2_past_cap :
    overlaps (exec .atan2 (outAt (capped (pairState 3 4) 0) 0x4013)) = true := by decide +kernel

/-- The second group's output lies over the input words, though KP_BOUNDS stops the command before it writes there. -/
theorem test_overlap_centroid_stopped : overlaps (exec .centroid (outAt fiveState 0x3FE0)) = true := by decide +kernel

/-- The marks lie in the image, though BUS stops the command before it writes any. -/
theorem test_overlap_detect_stopped : overlaps (exec .detect
    (imgAt { detectState 9 with params := { tp with admitRanges := [(0, 0x2017)] } } 0x1FFF)) = true := by
  decide +kernel

/-! ### Completions -/

theorem witness_DetectMarksTheCorners :
    ringWf (detectState 9).params.ring = true ∧ Legal .detect (detectState 9) ∧
    AllAdmitted (detectState 9).params (detectReads (detectState 9).params (detectState 9).regs
      ++ regionMarks (detectState 9).regs ++ edgeAddrs (detectState 9).regs) ∧
    Apart (detectRect (detectState 9).regs) (regionMarks (detectState 9).regs ++ edgeAddrs (detectState 9).regs) := by
  decide +kernel

theorem witness_ScoreRewritesTheMarks :
    Legal .score scoreState ∧ AllAdmitted scoreState.params (regionMarks scoreState.regs ++ scoreReads scoreState) ∧
    Apart (scoreReads scoreState) (scoreWrites scoreState) ∧ scoreWrites scoreState ≠ [] := by decide +kernel

theorem witness_ExtractAppendsTheSurvivors :
    Legal .extract (bucketState 1 1) ∧ AllAdmitted (bucketState 1 1).params (walkReads (bucketState 1 1).regs) ∧
    Room (bucketState 1 1) 4 (survivors (bucketState 1 1)).length ∧
    Apart (walkReads (bucketState 1 1).regs)
      (outAddrs (bucketState 1 1).regs 4 (survivors (bucketState 1 1)).length) := by decide +kernel

theorem witness_ExtractBktAppendsTheFilledGrid :
    Legal .extractBkt (bucketState 2 2) ∧ AllAdmitted (bucketState 2 2).params (walkReads (bucketState 2 2).regs) ∧
    Room (bucketState 2 2) 4 (flatten (fillGrid (bucketState 2 2).regs (survivors (bucketState 2 2)))).length ∧
    Apart (walkReads (bucketState 2 2).regs) (outAddrs (bucketState 2 2).regs 4
      (flatten (fillGrid (bucketState 2 2).regs (survivors (bucketState 2 2)))).length) := by decide +kernel

theorem witness_GridBucketBuildsTheGrid :
    Legal .gridBucket (bucketState 2 2) ∧
    AllAdmitted (bucketState 2 2).params (walkReads (bucketState 2 2).regs) := by decide +kernel

/-- An image as wide as its two borders: an empty region, though not an empty height (43_feature_grid R195 (1)). -/
def narrowState : State :=
  { bucketState 2 2 with regs := { (bucketState 2 2).regs with width := 4, stride := 4 } }

theorem witness_GridBucketBuildsTheGrid_narrow :
    Legal .gridBucket narrowState ∧ walkReads narrowState.regs = [] ∧ gridCols narrowState.regs = 0 ∧
    gridRows narrowState.regs = 0 := by decide +kernel

theorem test_gridBucket_narrow : ends (exec .gridBucket narrowState) (fun t =>
    t.gridDim = 0 && t.gridTotal = 0 && t.status.gridValid && !t.status.err) = true := by decide +kernel

/-- 17 columns would be more than MAX_BUCKETS, but the region is empty (42_nms_extract R174 (1)). -/
theorem test_extractBkt_flat : ends (exec .extractBkt { bucketState 1 1 with
    regs := { (bucketState 1 1).regs with width := 38, stride := 38, height := 4 } }) (fun t =>
    t.regs.outCount = 0 && t.status.done && !t.status.err) = true := by decide +kernel

theorem witness_GridReduceTrimsTheGrid :
    reduceState.status.gridValid = true ∧ Legal .gridReduce reduceState := by decide

theorem witness_GridIndexAppendsEveryEntry :
    gridState.status.gridValid = true ∧ GridOk gridState ∧ Legal .gridIndex gridState ∧
    Room gridState 4 (flatten gridState.grid.buckets).length :=
  ⟨rfl, gridState_gridOk, by decide, by decide⟩

theorem witness_GridQueryAppendsTheAreaFeatures :
    queryState.status.gridValid = true ∧ queryState.status.indexValid = true ∧ GridOk queryState ∧
    Legal .gridQuery queryState ∧ Room queryState 4 (areaHits queryState).length ∧ areaHits queryState = [5, 6] :=
  ⟨rfl, rfl, gridState_gridOk, by decide, by decide, by decide⟩

theorem witness_CentroidAppendsTheMoments :
    Legal .centroid smallDiskState ∧ (∀ k, k < smallDiskState.regs.inCount.toNat → InMargin smallDiskState k) ∧
    AllAdmitted smallDiskState.params (centroidReads smallDiskState smallDiskState.regs.inCount.toNat) ∧
    Room smallDiskState 4 (8 * groups smallDiskState.regs) ∧
    Apart (centroidReads smallDiskState smallDiskState.regs.inCount.toNat)
      (outAddrs smallDiskState.regs 4 (8 * groups smallDiskState.regs)) := by decide +kernel

theorem witness_Atan2AppendsTheBins :
    Legal .atan2 (pairState 3 4) ∧
    AllAdmitted (pairState 3 4).params (inputAddrs (pairState 3 4).regs (atan2Inputs (pairState 3 4).regs)) ∧
    Room (pairState 3 4) 1 (pairState 3 4).regs.inCount.toNat ∧
    Apart (inputAddrs (pairState 3 4).regs (atan2Inputs (pairState 3 4).regs))
      (outAddrs (pairState 3 4).regs 1 (pairState 3 4).regs.inCount.toNat) := by decide +kernel

theorem witness_DescribeAppendsTheDescriptors :
    Legal .describe (describeState 3) ∧
    (∀ k, k < (describeState 3).regs.inCount.toNat →
      InMargin (describeState 3) k ∧ (kpOrient (inputWord (describeState 3) k)).toNat < 30) ∧
    AllAdmitted (describeState 3).params (describeReads (describeState 3) (describeState 3).regs.inCount.toNat) ∧
    Room (describeState 3) 4 ((describeState 3).regs.descN.toNat * (describeState 3).regs.inCount.toNat) ∧
    Apart (describeReads (describeState 3) (describeState 3).regs.inCount.toNat)
      (outAddrs (describeState 3).regs 4
        ((describeState 3).regs.descN.toNat * (describeState 3).regs.inCount.toNat)) := by decide +kernel

/-! ### Properties -/

theorem witness_FlatAndEdgePatchesScoreNothing : ([0, 0, 0, 0, 255, 255, 255, 255] : List Byte).length = 8 := rfl

theorem witness_MiniFloatIsMonotone : (1 : Int) ≤ 1 ∧ (1 : Int) ≤ 2147483583 ∧ (2147483583 : Int) < 2147483584 := by
  decide

theorem witness_SurvivorsAreTheDominatingCells : (survivors (bucketState 1 1)).length = 3 := by decide +kernel

theorem witness_InsertionKeepsTheLargestWords : 1 ≤ 1 := by decide

theorem witness_GridCellsHoldTheirLargestWords :
    Legal .gridBucket (bucketState 2 2) ∧
    (∃ t, exec .gridBucket (bucketState 2 2) = .next t ∧
      (t.status.gridValid && decide (0 < t.grid.vb) && decide (0 < t.grid.hb)) = true) ∧
    (cellSurvivors (bucketState 2 2).regs (survivors (bucketState 2 2)) 0 0).length = 3 :=
  ⟨by decide, ends_next (by decide +kernel), by decide +kernel⟩

theorem witness_ReduceMeetsItsQuota :
    1 ≤ 1 ∧ 0 ≤ 4 ∧ (reduceGrid tgrid 0 4 1 2).2 ≤ 2 ∧ ¬ (reduceGrid tgrid 1 4 1 0).2 ≤ 0 ∧
    entryCount tgrid.buckets ≤ 3 := by decide +kernel

theorem witness_ReduceKeepsTheStrongest :
    tgrid.buckets.length = tgrid.hb * tgrid.vb ∧ ∀ b ∈ tgrid.buckets, Ascending b := by decide

theorem witness_ReduceKeepsTheStrongest_odd :
    (⟨12, 12, 3, 1, 1, 3, 3, List.replicate 9 []⟩ : Grid).buckets.length = 3 * 3 ∧ 3 % 2 = 1 ∧ 2 = 3 - 1 := by decide

theorem witness_MomentsAreDiskSums : diskWf tp.diskUmax = true := by decide

theorem witness_SymmetricDisksHaveNoMoment :
    diskWf tp.diskUmax = true ∧ ∀ dx dy : Int, BitVec.ofInt 8 (-dx * -dy) = BitVec.ofInt 8 (dx * dy) := by
  refine ⟨by decide, fun dx dy => ?_⟩
  rw [Int.neg_mul_neg]

theorem witness_AxisAndDiagonalBins : (0 : Int) < 2147483647 ∧ (2147483647 : Int) < 2147483648 := by decide

/-- A 31×31 image of constant 77, keypoint (15, 15) with bin 3 (46_orb_describe R260 (1)). -/
def constantState : State :=
  { describeState 3 with
    mem := cells 0x1000 31 31 31 (fun _ _ => 77) ++ [(0x4000, 0x0F), (0x4001, 0xF0), (0x4003, 3)] }

theorem witness_DescriptorBitsAreTheTests :
    (List.replicate 32 true).length = 32 ∧ 31 < 32 ∧
    (∀ k j, k < 1 → j < 32 * constantState.regs.descN.toNat →
      byteAt constantState.mem (probeAddrs constantState k j).1 = 77 ∧
      byteAt constantState.mem (probeAddrs constantState k j).2 = 77) := by
  refine ⟨rfl, by decide, fun k j hk hj => ?_⟩
  obtain rfl : k = 0 := by omega
  have h : ∀ j, j < 32 * constantState.regs.descN.toNat →
      byteAt constantState.mem (probeAddrs constantState 0 j).1 = 77 ∧
      byteAt constantState.mem (probeAddrs constantState 0 j).2 = 77 := by decide +kernel
  exact h j hj

theorem witness_UnspecifiedStorageIsNotObservable :
    Alike ts { ts with grid := tgrid, index := [1], freeCount := 9 } :=
  ⟨rfl, fun h => (by cases h), fun h => (by cases h)⟩

end Sys2Proof.Tests
end

section
/-! The acceptance of a command request: what a write to CMD does in a block that takes requests. -/

namespace Sys2Proof.Proofs

open Sys2Proof.Machine Sys2Proof.Safety

/-- The execution of a word that decodes (30_encoding R80). -/
theorem runWord_of_decode {v : Word} {i : Instr} (hv : decode v = .ok i) (s : State) : runWord v s = exec i s := by
  simp only [runWord, hv]

/-- A request to a block that is neither busy nor in error is accepted (10_state R22). -/
theorem requestCommand_accepted {s : State} (v : Word) (hb : s.status.busy = false) (he : s.status.err = false) :
    requestCommand v s = runWord v (s.accept v) := by
  simp [requestCommand, acceptsRequest, hb, he]

/-- A step whose act writes CMD, in a block that takes requests: the word runs on the accepted state, and the act is
consumed (00_scope R6, 10_state R22). -/
theorem step_request_of_ready {s : State} {v : Word} {rest : List HostEvent} (hready : Ready s)
    (hact : s.inputs = hostWr .cmd v :: rest) :
    step s = runWord v (State.accept { s with inputs := rest } v) := by
  obtain ⟨hr, hb, he⟩ := hready
  calc step s
    _ = hostRegWrite .w32 RegName.cmd.offset v { s with inputs := rest } := step_act hact
    _ = requestCommand v { s with inputs := rest } := hostRegWrite_idle .cmd v hr hb
    _ = runWord v (State.accept { s with inputs := rest } v) := requestCommand_accepted v hb he

/-- Settles O4: the accepted word runs, and it decodes to `i`. -/
theorem stepRunsTheDecodedCommand : Obligations.StepRunsTheDecodedCommand := by
  intro s v i rest hready hact hv
  exact (step_request_of_ready hready hact).trans (runWord_of_decode hv _)

end Sys2Proof.Proofs
end

section
/-! How a part of a command ends: what holds of the run it leaves, however it ends, with an error code other than 0
where it ends with an error. -/

namespace Sys2Proof.Proofs

open Sys2Proof.Machine Sys2Proof.Safety

variable {α β : Type}

/-! ## The judgement -/

/-- From the run `c` a part leaves a run with `Q`, however it ends, and an error it ends with has a code other than 0. -/
def EndsIn (x : Cmd α) (c : Run) (Q : Run → Prop) : Prop :=
  Q (x c).run ∧ ∀ e i c', x c = .err e i c' → e ≠ .none

/-- From every run a part leaves a run related to it. -/
def Obeys (R : Run → Run → Prop) (x : Cmd α) : Prop := ∀ c, EndsIn x c (R c)

/-- Two runs that differ at most in their declared footprints. -/
structure Quiet (c c' : Run) : Prop where
  st : c'.st = c.st
  buckets : c'.buckets = c.buckets

/-- A relation that the parts of a command can keep one after another, and that does not see declared footprints. -/
structure Composes (R : Run → Run → Prop) : Prop where
  quiet : ∀ {c c'}, Quiet c c' → R c c'
  trans : ∀ {c c' c''}, R c c' → R c' c'' → R c c''

theorem quiet_refl (c : Run) : Quiet c c := ⟨rfl, rfl⟩

theorem composes_quiet : Composes Quiet where
  quiet h := h
  trans h h' := ⟨h'.st.trans h.st, h'.buckets.trans h.buckets⟩

theorem EndsIn.mono {x : Cmd α} {c : Run} {Q Q' : Run → Prop} (h : EndsIn x c Q) (hQ : ∀ c', Q c' → Q' c') :
    EndsIn x c Q' :=
  ⟨hQ _ h.1, h.2⟩

theorem Obeys.mono {R R' : Run → Run → Prop} {x : Cmd α} (hx : Obeys R x) (h : ∀ c c', R c c' → R' c c') :
    Obeys R' x :=
  fun c => (hx c).mono (h c)

theorem EndsIn.of_ok {x : Cmd α} {c c' : Run} {a : α} {Q : Run → Prop} (h : x c = .ok a c') (hQ : Q c') :
    EndsIn x c Q := by
  simp [EndsIn, h, CmdResult.run, hQ]

theorem EndsIn.of_err {x : Cmd α} {c c' : Run} {e : ErrCode} {i : Word} {Q : Run → Prop} (h : x c = .err e i c')
    (he : e ≠ .none) (hQ : Q c') : EndsIn x c Q := by
  refine ⟨by simp [h, CmdResult.run, hQ], fun e' i' c1 h' => ?_⟩
  cases h.symm.trans h'
  exact he

/-- What holds of the run a part leaves holds of the run it gives a value with. -/
theorem EndsIn.ok {x : Cmd α} {c c' : Run} {a : α} {Q : Run → Prop} (hx : EndsIn x c Q) (h : x c = .ok a c') : Q c' := by
  simpa [h, CmdResult.run] using hx.1

theorem EndsIn.err {x : Cmd α} {c c' : Run} {e : ErrCode} {i : Word} {Q : Run → Prop} (hx : EndsIn x c Q)
    (h : x c = .err e i c') : Q c' := by
  simpa [h, CmdResult.run] using hx.1

/-- A sequence ends in `Q` where its first part does, and its second does from every run the first gives. -/
theorem EndsIn.bind {x : Cmd α} {f : α → Cmd β} {c : Run} {Q : Run → Prop} (hx : EndsIn x c Q)
    (hf : ∀ a c', x c = .ok a c' → EndsIn (f a) c' Q) : EndsIn (Cmd.bind x f) c Q := by
  cases h : x c with
  | ok a c' => simpa only [EndsIn, Cmd.bind_ok h] using hf a c' h
  | err e i c' => exact .of_err (Cmd.bind_err h) (hx.2 e i c' h) (hx.err h)

/-- A sequence whose first part changes nothing but the declared footprints. -/
theorem EndsIn.after {x : Cmd α} {f : α → Cmd β} {c : Run} {Q : Run → Prop} (hx : Obeys Quiet x)
    (hQ : ∀ c', Quiet c c' → Q c') (hf : ∀ a c', x c = .ok a c' → Quiet c c' → EndsIn (f a) c' Q) :
    EndsIn (Cmd.bind x f) c Q :=
  .bind ((hx c).mono hQ) fun a c' h => hf a c' h ((hx c).ok h)

/-! ## Parts that change nothing but the declared footprints -/

theorem Obeys.of_quiet {R : Run → Run → Prop} (hR : Composes R) {x : Cmd α} (hx : Obeys Quiet x) : Obeys R x :=
  hx.mono fun _ _ => hR.quiet

theorem Obeys.pure {a : α} : Obeys Quiet (Cmd.pure a) := fun c => .of_ok rfl (quiet_refl c)

theorem Obeys.get {f : State → α} : Obeys Quiet (Cmd.get f) := fun c => .of_ok rfl (quiet_refl c)

theorem Obeys.getBuckets : Obeys Quiet Cmd.getBuckets := fun c => .of_ok rfl (quiet_refl c)

theorem Obeys.raise {e : ErrCode} (he : e ≠ .none) {i : Word} : Obeys Quiet (Cmd.raise e i : Cmd α) :=
  fun c => .of_err rfl he (quiet_refl c)

theorem Obeys.declare {reads writes : List Span} : Obeys Quiet (declareFootprint reads writes) :=
  fun _ => .of_ok rfl ⟨rfl, rfl⟩

theorem Obeys.ite {R : Run → Run → Prop} {p : Prop} [Decidable p] {x y : Cmd α} (hx : Obeys R x) (hy : Obeys R y) :
    Obeys R (if p then x else y) := by split <;> assumption

theorem Obeys.check {bad : Bool} {reg : ParamReg} : Obeys Quiet (check bad reg) := .ite (.raise (by simp)) .pure

theorem Obeys.admitAccess {n : Nat} {a : Int} : Obeys Quiet (admitAccess n a) := by
  intro c
  rcases admitAccess_cases n a c with ⟨_, h⟩ | ⟨_, _, h⟩
  · exact .of_ok h (quiet_refl c)
  · exact .of_err h (by simp) (quiet_refl c)

theorem Obeys.readUnordered {as : List Int} : Obeys Quiet (readUnordered as) := by
  intro c
  rcases readUnordered_cases as c with ⟨_, h⟩ | ⟨_, _, _, h⟩
  · exact .of_ok h (quiet_refl c)
  · exact .of_err h (by simp) (quiet_refl c)

/-! ## Sequences and loops -/

section rules

variable {R : Run → Run → Prop} (hR : Composes R)
include hR

theorem Obeys.bind {x : Cmd α} {f : α → Cmd β} (hx : Obeys R x) (hf : ∀ a, Obeys R (f a)) :
    Obeys R (Cmd.bind x f) :=
  fun c => .bind (hx c) fun a c' h => (hf a c').mono fun _ => hR.trans ((hx c).ok h)

/-- A sequence whose first part changes nothing but the declared footprints. -/
theorem Obeys.after {x : Cmd α} {f : α → Cmd β} (hx : Obeys Quiet x) (hf : ∀ a, Obeys R (f a)) :
    Obeys R (Cmd.bind x f) :=
  .bind hR (.of_quiet hR hx) hf

theorem Obeys.forRange {f : Nat → Cmd Unit} (hf : ∀ i, Obeys R (f i)) (lo n : Nat) :
    Obeys R (Cmd.forRange lo n f) := by
  induction n generalizing lo with
  | zero => exact .of_quiet hR .pure
  | succ n ih => exact .bind hR (hf lo) fun _ => ih (lo + 1)

theorem Obeys.mapRange {f : Nat → Cmd α} (hf : ∀ i, Obeys R (f i)) (lo n : Nat) :
    Obeys R (Cmd.mapRange lo n f) := by
  induction n generalizing lo with
  | zero => exact .of_quiet hR .pure
  | succ n ih => exact .bind hR (hf lo) fun _ => .bind hR (ih (lo + 1)) fun _ => .of_quiet hR .pure

theorem Obeys.forList {f : α → Cmd Unit} {as : List α} (hf : ∀ a ∈ as, Obeys R (f a)) :
    Obeys R (Cmd.forList as f) := by
  induction as with
  | nil => exact .of_quiet hR .pure
  | cons a as ih =>
    exact .bind hR (hf a List.mem_cons_self) fun _ => ih fun b hb => hf b (List.mem_cons_of_mem a hb)

end rules

/-- An invariant of a loop's turns that succeed holds after a loop that succeeds. -/
theorem forRange_ok_invariant {f : Nat → Cmd Unit} (I : Nat → Run → Prop)
    (h : ∀ i c c', I i c → f i c = .ok () c' → I (i + 1) c') {lo n : Nat} {c c' : Run} (hc : I lo c)
    (hok : Cmd.forRange lo n f c = .ok () c') : I (lo + n) c' := by
  induction n generalizing lo c with
  | zero => cases hok; exact hc
  | succ n ih =>
    obtain ⟨_, c1, h1, h2⟩ := Cmd.bind_eq_ok.mp hok
    have := ih (h lo c c1 hc h1) h2
    rwa [Nat.add_right_comm] at this

/-! ## A whole command -/

/-- `t` is `u` once the end of a command, or an error with a code other than 0, has been recorded in it. -/
def EndsAs (u t : State) : Prop := t = u.finish ∨ ∃ e i, e ≠ ErrCode.none ∧ t = u.raise e i

/-- A whole command ends in what its body left, `last` applied, with its end recorded. -/
theorem endsAs_of_runCommand {last : State → State} {body : Cmd Unit} {s t : State} {Q : State → Prop}
    (hb : EndsIn body s.begin fun c => Q c.st) (h : runCommand last body s = .next t) :
    ∃ u, Q u ∧ EndsAs (last u) t := by
  rcases runCommand_next h with ⟨c, hc, rfl⟩ | ⟨e, i, c, hc, rfl⟩
  · exact ⟨c.st, hb.ok hc, .inl rfl⟩
  · exact ⟨c.st, hb.err hc, .inr ⟨e, i, hb.2 e i c hc, rfl⟩⟩

end Sys2Proof.Proofs
end

section
/-! The parts of the commands that only read and check, and what it takes for a check to pass. -/

namespace Sys2Proof.Proofs

open Sys2Proof.Machine Sys2Proof.Safety

/-! ## Reads -/

theorem readBytes_quiet {n : Nat} {a : Int} : Obeys Quiet (readBytes n a) :=
  .bind composes_quiet .admitAccess fun _ => .get

theorem memReadWord_quiet {a : Int} : Obeys Quiet (memReadWord a) :=
  .bind composes_quiet readBytes_quiet fun _ => .pure

theorem memReadByte_quiet {a : Int} : Obeys Quiet (memReadByte a) :=
  .bind composes_quiet readBytes_quiet fun _ => .pure

theorem boundedKeypoint_quiet {r : ParamRegs} {k : Nat} : Obeys Quiet (boundedKeypoint r k) :=
  .bind composes_quiet memReadWord_quiet fun _ => .ite .pure (.raise (by simp))

theorem centroidLane_quiet {p : Params} {r : ParamRegs} {k : Nat} : Obeys Quiet (centroidLane p r k) :=
  .ite
    (.bind composes_quiet boundedKeypoint_quiet fun _ => .bind composes_quiet .declare fun _ =>
      .bind composes_quiet .readUnordered fun _ => .pure)
    .pure

theorem describeWord_quiet {p : Params} {r : ParamRegs} {bin x y w : Nat} :
    Obeys Quiet (describeWord p r bin x y w) :=
  .bind composes_quiet
    (.mapRange composes_quiet (fun _ => .bind composes_quiet .readUnordered fun _ => .pure) _ _) fun _ => .pure

/-! ## Checks -/

theorem checkRaster_quiet {r : ParamRegs} : Obeys Quiet (checkRaster r) :=
  .bind composes_quiet .check fun _ => .bind composes_quiet .check fun _ => .check

theorem checkBuckets_quiet {p : Params} {r : ParamRegs} : Obeys Quiet (checkBuckets p r) :=
  .bind composes_quiet .check fun _ => .check

theorem checkWordOutput_quiet {r : ParamRegs} : Obeys Quiet (checkWordOutput r) :=
  .bind composes_quiet .check fun _ => .check

theorem walkChecks_quiet {r : ParamRegs} : Obeys Quiet (walkChecks r) :=
  .bind composes_quiet checkRaster_quiet fun _ => .check

theorem detectChecks_quiet {r : ParamRegs} : Obeys Quiet (detectChecks r) :=
  .bind composes_quiet checkRaster_quiet fun _ => .bind composes_quiet .check fun _ => .check

theorem scoreChecks_quiet {r : ParamRegs} : Obeys Quiet (scoreChecks r) :=
  .bind composes_quiet checkRaster_quiet fun _ => .check

theorem extractBktChecks_quiet {p : Params} {r : ParamRegs} : Obeys Quiet (extractBktChecks p r) :=
  .bind composes_quiet walkChecks_quiet fun _ => .bind composes_quiet checkBuckets_quiet fun _ =>
    .bind composes_quiet .check fun _ => checkWordOutput_quiet

theorem gridBucketChecks_quiet {p : Params} {r : ParamRegs} : Obeys Quiet (gridBucketChecks p r) :=
  .bind composes_quiet walkChecks_quiet fun _ => .bind composes_quiet checkBuckets_quiet fun _ => .check

theorem centroidChecks_quiet {r : ParamRegs} : Obeys Quiet (centroidChecks r) :=
  .bind composes_quiet checkRaster_quiet fun _ => .bind composes_quiet .check fun _ => checkWordOutput_quiet

theorem atan2Checks_quiet {r : ParamRegs} : Obeys Quiet (atan2Checks r) :=
  .bind composes_quiet .check fun _ => .check

theorem describeChecks_quiet {r : ParamRegs} : Obeys Quiet (describeChecks r) :=
  .bind composes_quiet checkRaster_quiet fun _ => .bind composes_quiet .check fun _ =>
    .bind composes_quiet .check fun _ => checkWordOutput_quiet

theorem requireGrid_quiet : Obeys Quiet requireGrid :=
  .bind composes_quiet .get fun _ => .ite .pure (.raise (by simp))

theorem requireIndex_quiet : Obeys Quiet requireIndex :=
  .bind composes_quiet .get fun _ => .ite .pure (.raise (by simp))

/-! ## Checks that pass -/

/-- OUT_COUNT is not above OUT_CAP. -/
def Fits (r : ParamRegs) : Prop := r.outCount.toNat ≤ r.outCap.toNat

theorem le_of_check {a b : Nat} {reg : ParamReg} {c c' : Run} (h : check (decide (a < b)) reg c = .ok () c') : b ≤ a :=
  Nat.not_lt.mp (of_decide_eq_false (check_eq_ok.mp h).1)

theorem fits_of_checkOutCount {r : ParamRegs} {c c' : Run} (h : checkOutCount r c = .ok () c') : Fits r :=
  le_of_check h

theorem fits_of_checkWordOutput {r : ParamRegs} {c c' : Run} (h : checkWordOutput r c = .ok () c') : Fits r := by
  obtain ⟨_, _, _, hcount⟩ := Cmd.bind_eq_ok.mp h
  exact fits_of_checkOutCount hcount

theorem fits_of_extractBktChecks {p : Params} {r : ParamRegs} {c c' : Run}
    (h : extractBktChecks p r c = .ok () c') : Fits r := by
  obtain ⟨_, _, _, h⟩ := Cmd.bind_eq_ok.mp h
  obtain ⟨_, _, _, h⟩ := Cmd.bind_eq_ok.mp h
  obtain ⟨_, _, _, hout⟩ := Cmd.bind_eq_ok.mp h
  exact fits_of_checkWordOutput hout

theorem fits_of_centroidChecks {r : ParamRegs} {c c' : Run} (h : centroidChecks r c = .ok () c') : Fits r := by
  obtain ⟨_, _, _, h⟩ := Cmd.bind_eq_ok.mp h
  obtain ⟨_, _, _, hout⟩ := Cmd.bind_eq_ok.mp h
  exact fits_of_checkWordOutput hout

theorem fits_of_atan2Checks {r : ParamRegs} {c c' : Run} (h : atan2Checks r c = .ok () c') : Fits r := by
  obtain ⟨_, _, _, hcount⟩ := Cmd.bind_eq_ok.mp h
  exact fits_of_checkOutCount hcount

theorem fits_of_describeChecks {r : ParamRegs} {c c' : Run} (h : describeChecks r c = .ok () c') : Fits r := by
  obtain ⟨_, _, _, h⟩ := Cmd.bind_eq_ok.mp h
  obtain ⟨_, _, _, h⟩ := Cmd.bind_eq_ok.mp h
  obtain ⟨_, _, _, hout⟩ := Cmd.bind_eq_ok.mp h
  exact fits_of_checkWordOutput hout

theorem gridValid_of_requireGrid {c c' : Run} (h : requireGrid c = .ok () c') : c.st.status.gridValid = true := by
  by_contra hv
  simp [requireGrid, Cmd.bind, hv] at h

/-! ## DETECT and SCORE: nothing but memory -/

/-- Nothing of the state but memory differs. -/
def MemOnly (s u : State) : Prop := u = { s with mem := u.mem }

theorem composes_memOnly : Composes fun c c' => MemOnly c.st c'.st where
  quiet h := by rw [h.st]; rfl
  trans h h' := by
    unfold MemOnly at *
    rw [h', h]

theorem memWrite_memOnly {a : Int} {bs : List Byte} : Obeys (fun c c' => MemOnly c.st c'.st) (memWrite a bs) := by
  intro c
  rcases memWrite_cases a bs c with ⟨_, h⟩ | ⟨_, _, h⟩
  · exact .of_ok h rfl
  · exact .of_err h (by simp) rfl

theorem detectBody_memOnly {p : Params} {r : ParamRegs} : Obeys (fun c c' => MemOnly c.st c'.st) (detectBody p r) :=
  .after composes_memOnly detectChecks_quiet fun _ => .after composes_memOnly .declare fun _ =>
    .forRange composes_memOnly (fun _ => .bind composes_memOnly
      (.forRange composes_memOnly (fun _ => .after composes_memOnly .readUnordered fun _ => memWrite_memOnly) _ _)
      fun _ => .ite (.of_quiet composes_memOnly .pure)
        (.bind composes_memOnly memWrite_memOnly fun _ => memWrite_memOnly)) _ _

theorem scoreBody_memOnly {p : Params} {r : ParamRegs} : Obeys (fun c c' => MemOnly c.st c'.st) (scoreBody p r) :=
  .after composes_memOnly scoreChecks_quiet fun _ => .after composes_memOnly .get fun _ =>
    .after composes_memOnly .declare fun _ =>
      .forRange composes_memOnly (fun _ => .forRange composes_memOnly (fun _ =>
        .after composes_memOnly memReadByte_quiet fun _ => .ite (.of_quiet composes_memOnly .pure)
          (.after composes_memOnly .readUnordered fun _ => memWrite_memOnly)) _ _) _ _

end Sys2Proof.Proofs
end

section
/-! Appending: what any number of appends to the output array leaves (20_memory R68), and the commands that append. -/

namespace Sys2Proof.Proofs

open Sys2Proof.Machine Sys2Proof.Safety

/-- `u` is `s` after `n` elements of `e` bytes were appended: OUT_COUNT and RESULT count them, they fit the array, and
no byte outside them and no other field has changed. -/
structure GrowsBy (e n : Nat) (s u : State) : Prop where
  frame : u = { s with
    mem := u.mem
    regs := { s.regs with outCount := s.regs.outCount + BitVec.ofNat 32 n }
    result := s.result + BitVec.ofNat 32 n }
  room : n = 0 ∨ s.regs.outCount.toNat + n ≤ s.regs.outCap.toNat
  outside : ∀ a, (a < outStart s.regs e ∨ outStart s.regs e + e * n ≤ a) → Memory.read u.mem a = Memory.read s.mem a

/-- Some number of elements were appended. -/
def Grows (e : Nat) (s u : State) : Prop := ∃ n, GrowsBy e n s u

theorem growsBy_zero (e : Nat) (s : State) : GrowsBy e 0 s s := ⟨by simp, .inl rfl, fun _ _ => rfl⟩

theorem GrowsBy.regs {e n : Nat} {s u : State} (h : GrowsBy e n s u) :
    u.regs = { s.regs with outCount := s.regs.outCount + BitVec.ofNat 32 n } := by rw [h.frame]

theorem GrowsBy.outCap {e n : Nat} {s u : State} (h : GrowsBy e n s u) : u.regs.outCap = s.regs.outCap := by
  rw [h.regs]

/-- OUT_COUNT does not wrap, since it stays below OUT_CAP. -/
theorem GrowsBy.outCount_toNat {e n : Nat} {s u : State} (h : GrowsBy e n s u) :
    u.regs.outCount.toNat = s.regs.outCount.toNat + n := by
  have hcap := s.regs.outCap.isLt
  have hcount := s.regs.outCount.isLt
  have hroom := h.room
  rw [h.regs, BitVec.toNat_add, BitVec.toNat_ofNat]
  omega

theorem GrowsBy.outStart {e n : Nat} {s u : State} (h : GrowsBy e n s u) :
    outStart u.regs e = outStart s.regs e + e * n := by
  simp only [Safety.outStart, h.outCount_toNat]
  rw [h.regs, Nat.mul_add, Nat.add_assoc]

theorem GrowsBy.trans {e n m : Nat} {s u v : State} (h : GrowsBy e n s u) (h' : GrowsBy e m u v) :
    GrowsBy e (n + m) s v := by
  refine ⟨?_, ?_, fun a ha => ?_⟩
  · rw [h'.frame, h.frame]
    simp [BitVec.ofNat_add, BitVec.add_assoc]
  · have hroom := h.room
    have hroom' := h'.room
    rw [h.outCount_toNat, h.outCap] at hroom'
    omega
  · rw [Nat.mul_add] at ha
    rw [h'.outside a (by rw [h.outStart]; omega), h.outside a (by omega)]

theorem GrowsBy.fits {e n : Nat} {s u : State} (h : GrowsBy e n s u) (hs : Fits s.regs) : Fits u.regs := by
  unfold Fits at *
  rw [h.outCount_toNat, h.outCap]
  have := h.room
  omega

/-- Where OUT_COUNT is not above OUT_CAP, a part appends some number of elements of `e` bytes, and does nothing else. -/
def Appending (e : Nat) (c c' : Run) : Prop := Fits c.st.regs → Grows e c.st c'.st

theorem composes_appending (e : Nat) : Composes (Appending e) where
  quiet h _ := by rw [h.st]; exact ⟨0, growsBy_zero e _⟩
  trans h h' hs := by
    obtain ⟨n, hn⟩ := h hs
    obtain ⟨m, hm⟩ := h' (hn.fits hs)
    exact ⟨n + m, hn.trans hm⟩

theorem appendAddr_toNat (r : ParamRegs) (e : Nat) : (appendAddr r e).toNat = outStart r e := Int.toNat_natCast _

/-- The state after one element has been stored and counted. -/
theorem growsBy_one {s : State} (bs : List Byte) (hs : Fits s.regs) (hfull : s.regs.outCount ≠ s.regs.outCap) :
    GrowsBy bs.length 1 s
      (State.countElement { s with mem := Memory.writeBytes s.mem (appendAddr s.regs bs.length).toNat bs }) := by
  refine ⟨rfl, .inr ?_, fun a ha => ?_⟩
  · have : s.regs.outCount.toNat ≠ s.regs.outCap.toNat := fun h => hfull (BitVec.eq_of_toNat_eq h)
    unfold Fits at hs
    omega
  · rw [Nat.mul_one] at ha
    exact Memory.read_writeBytes_outside _ _ _ _ (by rwa [appendAddr_toNat])

theorem append_appending (bs : List Byte) : Obeys (Appending bs.length) (append bs) := by
  intro c
  have hrefl := (composes_appending bs.length).quiet (quiet_refl c)
  rcases append_cases bs c with ⟨_, h⟩ | ⟨hfull, _, h⟩ | ⟨_, _, _, h⟩
  · exact .of_err h (by simp) hrefl
  · exact .of_ok h fun hs => ⟨1, growsBy_one bs hs hfull⟩
  · exact .of_err h (by simp) hrefl

theorem appendWord_appending {v : Word} : Obeys (Appending 4) (appendWord v) := append_appending (wordBytes v)

theorem appendByte_appending {v : Byte} : Obeys (Appending 1) (appendByte v) := append_appending [v]

theorem appendWords_appending {ws : List Word} : Obeys (Appending 4) (Cmd.forList ws appendWord) :=
  .forList (composes_appending 4) fun _ _ => appendWord_appending

/-- A list of words that are all appended adds as many elements as it has words. -/
theorem growsBy_of_appendWords {ws : List Word} {c c' : Run} (hs : Fits c.st.regs)
    (h : Cmd.forList ws appendWord c = .ok () c') : GrowsBy 4 ws.length c.st c'.st := by
  induction ws generalizing c with
  | nil => cases h; exact growsBy_zero 4 _
  | cons w ws ih =>
    obtain ⟨_, c1, hw, hws⟩ := Cmd.bind_eq_ok.mp h
    rcases append_cases (wordBytes w) c with ⟨_, he⟩ | ⟨hfull, _, hok⟩ | ⟨_, _, _, he⟩
    · cases he.symm.trans hw
    · cases hok.symm.trans hw
      have h1 := growsBy_one (wordBytes w) hs hfull
      rw [wordBytes_length] at h1
      rw [List.length_cons, Nat.add_comm]
      exact h1.trans (ih (h1.fits hs) hws)
    · cases he.symm.trans hw

/-! ## The commands that append -/

/-- Checks that establish OUT_COUNT ≤ OUT_CAP, and then a part that appends. -/
theorem EndsIn.appending {e : Nat} {r : ParamRegs} {checks rest : Cmd Unit} {c : Run} (hr : c.st.regs = r)
    (hchecks : Obeys Quiet checks) (hfits : ∀ c c', checks c = .ok () c' → Fits r) (hrest : Obeys (Appending e) rest) :
    EndsIn (Cmd.bind checks fun _ => rest) c fun c' => Grows e c.st c'.st := by
  have hquiet : ∀ c', Quiet c c' → Grows e c.st c'.st := fun c' hq => by
    rw [hq.st]; exact ⟨0, growsBy_zero e _⟩
  refine .after hchecks hquiet fun _ c1 hok hq => (hrest c1).mono fun c' happ => ?_
  unfold Appending at happ
  rw [hq.st] at happ
  exact happ (hr ▸ hfits c c1 hok)

/-- The same after a first part that only reads. -/
theorem EndsIn.grows_after {α : Type} {e : Nat} {x : Cmd α} {f : α → Cmd Unit} {c : Run} (hx : Obeys Quiet x)
    (hf : ∀ a c', c'.st = c.st → EndsIn (f a) c' fun c'' => Grows e c'.st c''.st) :
    EndsIn (Cmd.bind x f) c fun c' => Grows e c.st c'.st := by
  refine .after hx (fun c' hq => ?_) fun a c' _ hq => ?_
  · rw [hq.st]; exact ⟨0, growsBy_zero e _⟩
  · rw [← hq.st]; exact hf a c' hq.st

theorem atan2Body_grows {r : ParamRegs} {c : Run} (hr : c.st.regs = r) :
    EndsIn (atan2Body r) c fun c' => Grows 1 c.st c'.st :=
  have hA := composes_appending 1
  .appending hr atan2Checks_quiet (fun _ _ => fits_of_atan2Checks) <|
    .after hA .declare fun _ => .forRange hA (fun _ => .after hA memReadWord_quiet fun _ =>
      .after hA memReadWord_quiet fun _ => appendByte_appending) _ _

theorem centroidBody_grows {p : Params} {r : ParamRegs} {c : Run} (hr : c.st.regs = r) :
    EndsIn (centroidBody p r) c fun c' => Grows 4 c.st c'.st :=
  have hA := composes_appending 4
  .appending hr centroidChecks_quiet (fun _ _ => fits_of_centroidChecks) <|
    .after hA .declare fun _ => .forRange hA (fun _ =>
      .after hA (.mapRange composes_quiet (fun _ => centroidLane_quiet) _ _) fun _ =>
        .bind hA appendWords_appending fun _ => appendWords_appending) _ _

theorem describeBody_grows {p : Params} {r : ParamRegs} {c : Run} (hr : c.st.regs = r) :
    EndsIn (describeBody p r) c fun c' => Grows 4 c.st c'.st :=
  have hA := composes_appending 4
  .appending hr describeChecks_quiet (fun _ _ => fits_of_describeChecks) <|
    .after hA .get fun _ => .after hA .declare fun _ => .forRange hA (fun _ =>
      .after hA boundedKeypoint_quiet fun _ => .ite (.of_quiet hA (.raise (by simp))) <|
        .after hA (.mapRange composes_quiet (fun _ => describeWord_quiet) _ _) fun _ => appendWords_appending) _ _

/-! ### The suppression walk -/

/-- A survivor lies in the bounded region (42_nms_extract R161). -/
def InRegion (r : ParamRegs) (v : Survivor) : Prop :=
  (r.border.toNat ≤ v.x ∧ v.x + r.border.toNat < r.width.toNat) ∧
    (r.border.toNat ≤ v.y ∧ v.y + r.border.toNat < r.height.toNat)

theorem inRegion_of_mem_blockSurvivors {r : ParamRegs} {win : List Byte} {x y : Nat} {v : Survivor}
    (hx : r.border.toNat ≤ x) (hy : r.border.toNat ≤ y) (h : v ∈ blockSurvivors r win x y) : InRegion r v := by
  simp only [blockSurvivors, List.mem_map, List.mem_filter, Bool.and_eq_true, decide_eq_true_eq] at h
  obtain ⟨_, ⟨_, ⟨hw, hh⟩, _⟩, rfl⟩ := h
  exact ⟨⟨by dsimp only; omega, hw⟩, by dsimp only; omega, hh⟩

/-- The walk keeps what is kept for each survivor of the bounded region. -/
theorem walkRows_obeys {R : Run → Run → Prop} (hR : Composes R) {r : ParamRegs} {f : Survivor → Cmd Unit}
    (hf : ∀ v, InRegion r v → Obeys R (f v)) (lo n : Nat) : Obeys R (walkRows r f lo n) :=
  .forRange hR (fun _ => .forRange hR (fun _ => .after hR .readUnordered fun _ => .forList hR fun v hv =>
    hf v (inRegion_of_mem_blockSurvivors (by omega) (by omega) hv)) _ _) _ _

theorem extractBody_grows {p : Params} {r : ParamRegs} {c : Run} (hr : c.st.regs = r) :
    EndsIn (extractBody p r) c fun c' => Grows 4 c.st c'.st :=
  have hA := composes_appending 4
  .grows_after walkChecks_quiet fun _ _ hst =>
    .appending (by rw [hst, hr]) checkWordOutput_quiet (fun _ _ => fits_of_checkWordOutput) <|
      .after hA .get fun _ => .after hA .declare fun _ => walkRows_obeys hA (fun _ _ => appendWord_appending) _ _

/-! ### EXTRACT_BKT -/

theorem modifyBuckets_appending {e : Nat} {f : List Bucket → List Bucket} :
    Obeys (Appending e) (Cmd.modifyBuckets f) :=
  fun c => .of_ok rfl fun _ => ⟨0, growsBy_zero e c.st⟩

theorem flushStripe_appending {hb : Nat} : Obeys (Appending 4) (flushStripe hb) :=
  have hA := composes_appending 4
  .after hA .getBuckets fun _ => .bind hA (.forList hA fun _ _ => appendWords_appending) fun _ => modifyBuckets_appending

/-- EXTRACT_BKT stops at its checks, or loses the grid and then appends (42_nms_extract R169). -/
theorem extractBktBody_leaves {p : Params} {r : ParamRegs} {c : Run} (hr : c.st.regs = r) :
    EndsIn (extractBktBody p r) c fun c' => c'.st = c.st ∨ Grows 4 c.st.loseGrid c'.st := by
  have hA := composes_appending 4
  refine .after extractBktChecks_quiet (fun _ h => .inl h.st) fun _ c1 hok h1 => ?_
  refine .after .get (fun _ h => .inl (h.st.trans h1.st)) fun _ c2 _ h2 => ?_
  refine .after .declare (fun _ h => .inl (h.st.trans (h2.st.trans h1.st))) fun _ c3 _ h3 => ?_
  have hst : c3.st = c.st := h3.st.trans (h2.st.trans h1.st)
  have hfits : Fits c.st.loseGrid.regs := by
    rw [State.loseGrid_regs, hr]; exact fits_of_extractBktChecks hok
  refine .bind (.of_ok rfl (.inr (by rw [hst]; exact ⟨0, growsBy_zero 4 _⟩))) fun _ c4 h4 => ?_
  cases h4
  have hstripes : Obeys (Appending 4) (Cmd.bind (resetStripe (gridCols r)) fun _ =>
      Cmd.forRange 0 (gridRows r) fun i => Cmd.bind (fillStripe r i) fun _ => flushStripe (gridCols r)) :=
    .bind hA modifyBuckets_appending fun _ => .forRange hA (fun _ =>
      .bind hA (walkRows_obeys hA (fun _ _ => modifyBuckets_appending) _ _) fun _ => flushStripe_appending) _ _
  refine (hstripes _).mono fun c' happ => .inr ?_
  unfold Appending at happ
  rw [hst] at happ
  exact happ hfits

end Sys2Proof.Proofs
end

section
/-! Buckets and the grid: what one insertion, one walk of GRID_BUCKET and one run of GRID_REDUCE leave of legal
buckets (42_nms_extract R168, 43_feature_grid R190 to R199). -/

namespace Sys2Proof.Proofs

open Sys2Proof.Machine Sys2Proof.Safety

/-! ## One bucket -/

/-- The model's insertion is the library's, for the order of keypoint words (30_encoding R90). -/
theorem insertAscending_eq (w : Word) (b : Bucket) : insertAscending w b = b.orderedInsert (· ≤ ·) w := by
  induction b with
  | nil => rfl
  | cons u b ih =>
    by_cases h : u.toNat < w.toNat
    · simp [insertAscending, weaker, h, BitVec.le_def, ih]
    · simp [insertAscending, weaker, h, BitVec.le_def, Nat.le_of_not_lt h]

theorem ascending_insertAscending {w : Word} {b : Bucket} (h : Ascending b) : Ascending (insertAscending w b) := by
  rw [insertAscending_eq]
  exact List.Pairwise.orderedInsert w b h

theorem mem_insertAscending {w kp : Word} {b : Bucket} : kp ∈ insertAscending w b ↔ kp = w ∨ kp ∈ b := by
  rw [insertAscending_eq, List.mem_orderedInsert]

theorem length_insertAscending (w : Word) (b : Bucket) : (insertAscending w b).length = b.length + 1 := by
  rw [insertAscending_eq, List.orderedInsert_length]

/-- The cases of bucket insertion (42_nms_extract R168): the word goes in, or it replaces the weakest entry of a full
bucket, or the bucket stays as it is. -/
theorem bucketInsert_cases (k : Nat) (w : Word) (b : Bucket) :
    (bucketInsert k w b = insertAscending w b ∧ (b = [] ∨ b.length < k)) ∨
      (bucketInsert k w b = insertAscending w b.tail ∧ b ≠ []) ∨ bucketInsert k w b = b := by
  cases b with
  | nil => exact .inl ⟨rfl, .inl rfl⟩
  | cons u b =>
    rw [show bucketInsert k w (u :: b) = if b.length + 1 < k then insertAscending w (u :: b)
      else if weaker u w then insertAscending w b else u :: b from rfl]
    split
    case isTrue hroom => exact .inl ⟨rfl, .inr hroom⟩
    case isFalse =>
      split
      · exact .inr (.inl ⟨rfl, List.cons_ne_nil u b⟩)
      · exact .inr (.inr rfl)

theorem ascending_bucketInsert {k : Nat} {w : Word} {b : Bucket} (h : Ascending b) :
    Ascending (bucketInsert k w b) := by
  rcases bucketInsert_cases k w b with ⟨he, _⟩ | ⟨he, _⟩ | he <;> rw [he]
  · exact ascending_insertAscending h
  · exact ascending_insertAscending h.tail
  · exact h

theorem length_bucketInsert {k : Nat} {w : Word} {b : Bucket} (hk : 1 ≤ k) (h : b.length ≤ k) :
    (bucketInsert k w b).length ≤ k := by
  rcases bucketInsert_cases k w b with ⟨he, rfl | hlt⟩ | ⟨he, hne⟩ | he <;> rw [he]
  · exact hk
  · rw [length_insertAscending]; exact hlt
  · have := List.length_pos_iff.mpr hne
    rw [length_insertAscending, List.length_tail]; omega
  · exact h

theorem mem_bucketInsert {k : Nat} {w kp : Word} {b : Bucket} (h : kp ∈ bucketInsert k w b) : kp = w ∨ kp ∈ b := by
  rcases bucketInsert_cases k w b with ⟨he, _⟩ | ⟨he, _⟩ | he <;> rw [he] at h
  · exact mem_insertAscending.mp h
  · exact (mem_insertAscending.mp h).imp_right List.mem_of_mem_tail
  · exact .inr h

/-- A keypoint word's position lies in cell (i, j) of a grid's geometry. -/
def InCell (g : Grid) (i j : Nat) (kp : Word) : Prop :=
  (g.border + j * 2 ^ g.logB ≤ (kpX kp).toNat ∧ (kpX kp).toNat < g.border + (j + 1) * 2 ^ g.logB) ∧
    (g.border + i * 2 ^ g.logB ≤ (kpY kp).toNat ∧ (kpY kp).toNat < g.border + (i + 1) * 2 ^ g.logB)

theorem bucketOk_nil (g : Grid) (i j : Nat) : BucketOk g i j [] := ⟨List.Pairwise.nil, by simp, by simp⟩

theorem bucketOk_bucketInsert {g : Grid} {i j : Nat} {w : Word} {b : Bucket} (hk : 1 ≤ g.k) (hw : InCell g i j w)
    (h : BucketOk g i j b) : BucketOk g i j (bucketInsert g.k w b) := by
  obtain ⟨hasc, hlen, hcell⟩ := h
  refine ⟨ascending_bucketInsert hasc, length_bucketInsert hk hlen, fun kp hkp => ?_⟩
  rcases mem_bucketInsert hkp with rfl | hmem
  · exact hw
  · exact hcell kp hmem

theorem bucketOk_of_suffix {g : Grid} {i j : Nat} {b b' : Bucket} (hs : b' <:+ b) (h : BucketOk g i j b) :
    BucketOk g i j b' := by
  obtain ⟨hasc, hlen, hcell⟩ := h
  exact ⟨hasc.sublist hs.sublist, hs.length_le.trans hlen, fun kp hkp => hcell kp (hs.mem hkp)⟩

/-! ## A list of buckets -/

@[simp] theorem bucketAt_nil (q : Nat) : bucketAt [] q = [] := rfl
@[simp] theorem bucketAt_cons_zero (b : Bucket) (bs : List Bucket) : bucketAt (b :: bs) 0 = b := rfl
@[simp] theorem bucketAt_cons_succ (b : Bucket) (bs : List Bucket) (q : Nat) :
    bucketAt (b :: bs) (q + 1) = bucketAt bs q := rfl

theorem bucketAt_emptyBuckets (n q : Nat) : bucketAt (emptyBuckets n) q = [] := by
  simp [bucketAt, emptyBuckets]

theorem length_insertInto (k : Nat) (w : Word) (n : Nat) (bs : List Bucket) :
    (insertInto k w n bs).length = bs.length := by
  induction bs generalizing n with
  | nil => cases n <;> rfl
  | cons b bs ih => cases n <;> simp [insertInto, ih]

/-- Insertion into a list of buckets changes at most the bucket it goes to. -/
theorem bucketAt_insertInto (k : Nat) (w : Word) (n q : Nat) (bs : List Bucket) :
    bucketAt (insertInto k w n bs) q = bucketAt bs q ∨
      q = n ∧ bucketAt (insertInto k w n bs) q = bucketInsert k w (bucketAt bs q) := by
  induction bs generalizing n q with
  | nil => cases n <;> exact .inl rfl
  | cons b bs ih =>
    cases n with
    | zero => cases q <;> simp [insertInto]
    | succ n =>
      cases q with
      | zero => exact .inl rfl
      | succ q => simpa [insertInto] using ih n q

/-- The geometry is one that GRID_BUCKET accepts, and every bucket keeps its invariants. -/
def LegalGrid (p : Params) (g : Grid) : Prop :=
  GeometryOk p g ∧
    ∀ i j, i < g.vb → j < g.hb → BucketOk g i j (bucketAt g.buckets (i * g.hb + j))

/-! ## GRID_REDUCE drops the weakest entries (43_feature_grid R197) -/

/-- Every bucket has lost at most some of its weakest entries. -/
structure Trims (bs bs' : List Bucket) : Prop where
  length : bs'.length = bs.length
  suffix : ∀ q, bucketAt bs' q <:+ bucketAt bs q

theorem trims_refl (bs : List Bucket) : Trims bs bs := ⟨rfl, fun _ => List.suffix_rfl⟩

theorem Trims.trans {bs bs' bs'' : List Bucket} (h : Trims bs bs') (h' : Trims bs' bs'') : Trims bs bs'' :=
  ⟨h'.length.trans h.length, fun q => (h'.suffix q).trans (h.suffix q)⟩

theorem trims_dropWeakest (n : Nat) (bs : List Bucket) : Trims bs (dropWeakest n bs) := by
  induction bs generalizing n with
  | nil => cases n <;> exact trims_refl []
  | cons b bs ih =>
    cases n with
    | zero =>
      refine ⟨rfl, fun q => ?_⟩
      cases q with
      | zero => exact List.tail_suffix b
      | succ q => exact List.suffix_rfl
    | succ n =>
      obtain ⟨hlen, hsuf⟩ := ih n
      refine ⟨by simp [dropWeakest, hlen], fun q => ?_⟩
      cases q with
      | zero => exact List.suffix_rfl
      | succ q => exact hsuf q

theorem trims_trimCell (n tgt : Nat) (cells : List Nat) (fuel : Nat) (g : List Bucket × Nat) :
    Trims g.1 (trimCell n tgt cells fuel g).1 := by
  induction fuel generalizing g with
  | zero => exact trims_refl g.1
  | succ fuel ih =>
    obtain ⟨bs, total⟩ := g
    unfold trimCell
    split
    · split
      · exact trims_refl bs
      · exact (trims_dropWeakest _ bs).trans (ih (dropWeakest _ bs, total - 1))
    · exact trims_refl bs

theorem trims_reduceLevel (n tgt : Nat) (cells : List (List Nat)) (g : List Bucket × Nat) :
    Trims g.1 (reduceLevel n tgt cells g).1 := by
  induction cells generalizing g with
  | nil => exact trims_refl g.1
  | cons c cells ih => exact (trims_trimCell n tgt c _ g).trans (ih _)

theorem trims_reduceLevels (mn st tgt : Nat) (cells : List (List Nat)) (fuel n : Nat) (g : List Bucket × Nat) :
    Trims g.1 (reduceLevels mn st tgt cells fuel n g).1 := by
  induction fuel generalizing n g with
  | zero => exact trims_refl g.1
  | succ fuel ih =>
    have hlevel := trims_reduceLevel n tgt cells g
    unfold reduceLevels
    dsimp only
    split
    · exact hlevel
    · exact hlevel.trans (ih _ _)

theorem trims_reduceGrid (g : Grid) (mn mx st tgt : Nat) : Trims g.buckets (reduceGrid g mn mx st tgt).1 :=
  trims_reduceLevels _ _ _ _ _ _ (g.buckets, entryCount g.buckets)

theorem LegalGrid.of_trims {p : Params} {g : Grid} {bs : List Bucket} (h : LegalGrid p g) (ht : Trims g.buckets bs) :
    LegalGrid p { g with buckets := bs } := by
  obtain ⟨⟨hw, hh, hb, hl, hl', hk, hk', hgeom, hmax, hlen⟩, hbuckets⟩ := h
  exact ⟨⟨hw, hh, hb, hl, hl', hk, hk', hgeom, hmax, ht.length.trans hlen⟩,
    fun i j hi hj => bucketOk_of_suffix (ht.suffix _) (hbuckets i j hi hj)⟩

/-- GRID_REDUCE leaves a legal grid legal. -/
theorem LegalGrid.reduce {p : Params} {s : State} (h : LegalGrid p s.grid) : LegalGrid p s.reduce.grid :=
  h.of_trims (trims_reduceGrid _ _ _ _ _)

/-! ## GRID_BUCKET fills the buckets (43_feature_grid R192) -/

theorem kpX_pack (m : Byte) (x y : BitVec 12) : kpX (pack m x y) = x := by
  apply BitVec.eq_of_getLsbD_eq
  intro i hi
  simp only [kpX, pack, BitVec.getLsbD_append, BitVec.getLsbD_extractLsb']
  simp [hi]

theorem kpY_pack (m : Byte) (x y : BitVec 12) : kpY (pack m x y) = y := by
  apply BitVec.eq_of_getLsbD_eq
  intro i hi
  simp only [kpY, pack, BitVec.getLsbD_append, BitVec.getLsbD_extractLsb']
  simp [hi]

/-- A position of the bounded region falls in one of the buckets along its extent (42_nms_extract R164). -/
theorem cell_lt_bucketsAlong {extent border logB x : Nat} (hx : border ≤ x) (hx' : x + border < extent) :
    (x - border) / 2 ^ logB < bucketsAlong extent border logB := by
  have hpos : 0 < 2 ^ logB := Nat.two_pow_pos logB
  calc (x - border) / 2 ^ logB
    _ < (x - border) / 2 ^ logB + 1 := Nat.lt_succ_self _
    _ = (x - border + 2 ^ logB) / 2 ^ logB := (Nat.add_div_right _ hpos).symm
    _ ≤ (extent - 2 * border + 2 ^ logB - 1) / 2 ^ logB := Nat.div_le_div_right (by omega)

/-- A position lies in the cell that it is divided into. -/
theorem cell_bounds {border logB x : Nat} (hx : border ≤ x) :
    border + (x - border) / 2 ^ logB * 2 ^ logB ≤ x ∧ x < border + ((x - border) / 2 ^ logB + 1) * 2 ^ logB := by
  have hle := Nat.div_mul_le_self (x - border) (2 ^ logB)
  have hlt := Nat.lt_mul_div_succ (x - border) (Nat.two_pow_pos logB)
  rw [Nat.mul_comm] at hlt
  omega

/-- The bucket that a survivor goes to is that of the cell its word's position lies in. -/
theorem inCell_of_ownerBucket {r : ParamRegs} {bs : List Bucket} {v : Survivor} {i j : Nat} (hv : InRegion r v)
    (hw : r.width.toNat ≤ 4096) (hh : r.height.toNat ≤ 4096) (hj : j < gridCols r)
    (howner : i * gridCols r + j = ownerBucket (gridCols r) r.border.toNat r.logBkt.toNat v.x v.y) :
    InCell (builtGrid r bs) i j v.word := by
  obtain ⟨⟨hx, hx'⟩, hy, hy'⟩ := hv
  have hcols : gridCols r = bucketsAlong r.width.toNat r.border.toNat r.logBkt.toNat := by
    rw [gridCols, geometry_nonempty _ (by omega) (by omega)]
  have hcol : (v.x - r.border.toNat) / 2 ^ r.logBkt.toNat < gridCols r := hcols ▸ cell_lt_bucketsAlong hx hx'
  have hi : i = (v.y - r.border.toNat) / 2 ^ r.logBkt.toNat := by
    have := congrArg (· / gridCols r) howner
    simpa [ownerBucket, Nat.mul_comm _ (gridCols r), Nat.mul_add_div (Nat.zero_lt_of_lt hj), Nat.div_eq_of_lt hj,
      Nat.div_eq_of_lt hcol] using this
  have hjx : j = (v.x - r.border.toNat) / 2 ^ r.logBkt.toNat := by
    simpa [ownerBucket, ← hi] using howner
  have hkx : (kpX v.word).toNat = v.x := by
    rw [Survivor.word, kpX_pack, BitVec.toNat_ofNat, Nat.mod_eq_of_lt (by omega)]
  have hky : (kpY v.word).toNat = v.y := by
    rw [Survivor.word, kpY_pack, BitVec.toNat_ofNat, Nat.mod_eq_of_lt (by omega)]
  unfold InCell
  rw [hkx, hky, hi, hjx]
  exact ⟨cell_bounds hx, cell_bounds hy⟩

theorem LegalGrid.insert {p : Params} {r : ParamRegs} {bs : List Bucket} {v : Survivor} (hv : InRegion r v)
    (h : LegalGrid p (builtGrid r bs)) :
    LegalGrid p (builtGrid r (insertInto r.bktK.toNat v.word
      (ownerBucket (gridCols r) r.border.toNat r.logBkt.toNat v.x v.y) bs)) := by
  obtain ⟨⟨hw, hh, hb, hl, hl', hk, hk', hgeom, hmax, hlen⟩, hbuckets⟩ := h
  refine ⟨⟨hw, hh, hb, hl, hl', hk, hk', hgeom, hmax, (length_insertInto _ _ _ _).trans hlen⟩, fun i j hi hj => ?_⟩
  have hold := hbuckets i j hi hj
  rcases bucketAt_insertInto r.bktK.toNat v.word (ownerBucket (gridCols r) r.border.toNat r.logBkt.toNat v.x v.y)
    (i * gridCols r + j) bs with hsame | ⟨howner, hnew⟩
  · exact hsame ▸ hold
  · exact hnew ▸ bucketOk_bucketInsert (g := builtGrid r bs) hk (inCell_of_ownerBucket hv hw hh hj howner) hold

/-- What the checks of GRID_BUCKET establish (43_feature_grid R194). -/
theorem legalGrid_of_gridBucketChecks {p : Params} {r : ParamRegs} {c c' : Run}
    (h : gridBucketChecks p r c = .ok () c') :
    LegalGrid p (builtGrid r (emptyBuckets (gridCols r * gridRows r))) := by
  obtain ⟨_, _, hwalk, h⟩ := Cmd.bind_eq_ok.mp h
  obtain ⟨_, _, hraster, hborder⟩ := Cmd.bind_eq_ok.mp hwalk
  obtain ⟨_, _, hwidth, hraster⟩ := Cmd.bind_eq_ok.mp hraster
  obtain ⟨_, _, hheight, _⟩ := Cmd.bind_eq_ok.mp hraster
  obtain ⟨_, _, hbkt, hmax⟩ := Cmd.bind_eq_ok.mp h
  obtain ⟨_, _, hlog, hk⟩ := Cmd.bind_eq_ok.mp hbkt
  have hlog := (check_eq_ok.mp hlog).1
  have hk := (check_eq_ok.mp hk).1
  simp only [Bool.or_eq_false_iff, decide_eq_false_iff_not, not_lt] at hlog hk
  refine ⟨⟨le_of_check hwidth, le_of_check hheight, le_of_check hborder, hlog.1, hlog.2, hk.1, hk.2, rfl,
    le_of_check hmax, List.length_replicate⟩, fun i j _ _ => ?_⟩
  exact (bucketAt_emptyBuckets _ _).symm ▸ bucketOk_nil _ i j

/-- The walk of GRID_BUCKET: the state stays as it is, and legal buckets stay legal. -/
def Filling (p : Params) (r : ParamRegs) (c c' : Run) : Prop :=
  c'.st = c.st ∧ (LegalGrid p (builtGrid r c.buckets) → LegalGrid p (builtGrid r c'.buckets))

theorem composes_filling (p : Params) (r : ParamRegs) : Composes (Filling p r) where
  quiet h := ⟨h.st, fun hl => h.buckets ▸ hl⟩
  trans h h' := ⟨h'.1.trans h.1, fun hl => h'.2 (h.2 hl)⟩

theorem walk_filling {p : Params} {r : ParamRegs} :
    Obeys (Filling p r) (walk r fun v => Cmd.modifyBuckets (insertInto r.bktK.toNat v.word
      (ownerBucket (gridCols r) r.border.toNat r.logBkt.toNat v.x v.y))) :=
  walkRows_obeys (composes_filling p r) (fun _ hv c =>
    .of_ok (Cmd.modifyBuckets_apply _ c) ⟨rfl, LegalGrid.insert hv⟩) _ _

/-- GRID_BUCKET stops at its checks, or loses the grid, and where it completes installs a legal one. -/
def GridBucketLeaves (p : Params) (r : ParamRegs) (s u : State) : Prop :=
  u = s ∨ u = s.loseGrid ∨
    ∃ bs, LegalGrid p (builtGrid r bs) ∧ u = s.loseGrid.installGrid (builtGrid r bs)

theorem gridBucketBody_leaves {p : Params} {r : ParamRegs} {c : Run} :
    EndsIn (gridBucketBody p r) c fun c' => GridBucketLeaves p r c.st c'.st := by
  refine .after gridBucketChecks_quiet (fun _ h => .inl h.st) fun _ c1 hok h1 => ?_
  rw [← h1.st]
  refine .bind (.of_ok rfl (.inr (.inl rfl))) fun _ c2 h2 => ?_
  cases h2
  refine .bind (.of_ok rfl (.inr (.inl rfl))) fun _ c3 h3 => ?_
  cases h3
  have hwalk := walk_filling (p := p) (r := r)
    { c1 with st := c1.st.loseGrid, buckets := emptyBuckets (gridCols r * gridRows r) }
  refine .bind (hwalk.mono fun c' h => .inr (.inl h.1)) fun _ c4 h4 => ?_
  obtain ⟨hst, hlegal⟩ := hwalk.ok h4
  exact .of_ok rfl (.inr (.inr ⟨c4.buckets, hlegal (legalGrid_of_gridBucketChecks hok),
    congrArg (State.installGrid · _) hst⟩))

theorem gridReduceBody_leaves {r : ParamRegs} {c : Run} :
    EndsIn (gridReduceBody r) c fun c' => c'.st = c.st ∨ c'.st = c.st.reduce := by
  refine .after requireGrid_quiet (fun _ h => .inl h.st) fun _ c1 _ h1 => ?_
  refine .after .check (fun _ h => .inl (h.st.trans h1.st)) fun _ c2 _ h2 => ?_
  refine .after .check (fun _ h => .inl (h.st.trans (h2.st.trans h1.st))) fun _ c3 _ h3 => ?_
  exact .of_ok rfl (.inr (by rw [← h1.st, ← h2.st, ← h3.st]))

end Sys2Proof.Proofs
end

section
/-! GRID_INDEX and GRID_QUERY: the appends of the grid's entries and of the features found, and the start that GRID_INDEX
gives each bucket (43_feature_grid R201 to R206). -/

namespace Sys2Proof.Proofs

open Sys2Proof.Machine Sys2Proof.Safety

/-! ## GRID_QUERY -/

theorem queryEntries_appending {x y r : Int} {start : Word} {e : Nat} {b : Bucket} :
    Obeys (Appending 4) (queryEntries x y r start e b) := by
  have hA := composes_appending 4
  induction b generalizing e with
  | nil => exact .of_quiet hA .pure
  | cons kp rest ih => exact .bind hA (.ite appendWord_appending (.of_quiet hA .pure)) fun _ => ih

theorem queryCells_appending {g : Grid} {index : List Word} {x y r : Int} :
    Obeys (Appending 4) (queryCells g index x y r) :=
  have hA := composes_appending 4
  .forRange hA (fun _ => .forRange hA (fun _ => queryEntries_appending) _ _) _ _

theorem gridQueryBody_grows {g : Grid} {index : List Word} {r : ParamRegs} {c : Run} (hr : c.st.regs = r) :
    EndsIn (gridQueryBody g index r) c fun c' => Grows 4 c.st c'.st :=
  .grows_after requireGrid_quiet fun _ _ h1 => .grows_after requireIndex_quiet fun _ _ h2 =>
    .grows_after .check fun _ _ h3 =>
      .appending (by rw [h3, h2, h1, hr]) checkWordOutput_quiet (fun _ _ => fits_of_checkWordOutput) <|
        .ite (.of_quiet (composes_appending 4) .pure) queryCells_appending

/-! ## The index table -/

theorem getD_setSlot (v : Word) (n q : Nat) (l : List Word) :
    (setSlot v n l).getD q 0 = if q = n then v else l.getD q 0 := by
  induction n generalizing q l with
  | zero => cases l <;> cases q <;> simp [setSlot]
  | succ n ih =>
    cases q with
    | zero => cases l <;> simp [setSlot]
    | succ q =>
      cases l with
      | nil => simpa [setSlot] using ih q []
      | cons _ l => simpa [setSlot] using ih q l

theorem entriesBefore_zero (bs : List Bucket) : entriesBefore bs 0 = 0 := by
  simp [entriesBefore, entryCount]

theorem entriesBefore_succ (bs : List Bucket) (q : Nat) :
    entriesBefore bs (q + 1) = entriesBefore bs q + (bucketAt bs q).length := by
  induction bs generalizing q with
  | nil => simp [entriesBefore, entryCount]
  | cons b bs ih =>
    cases q with
    | zero => simp [entriesBefore, entryCount]
    | succ q => simpa [entriesBefore, entryCount, Nat.add_assoc] using ih q

theorem entriesBefore_mono {bs : List Bucket} {q q' : Nat} (h : q ≤ q') : entriesBefore bs q ≤ entriesBefore bs q' :=
  monotone_nat_of_le_succ (fun q => by rw [entriesBefore_succ]; omega) h

/-! ## GRID_INDEX -/

/-- Appending does not see the index table. -/
theorem GrowsBy.with_index {e n : Nat} {s u : State} (h : GrowsBy e n s u) (l : List Word) :
    GrowsBy e n { s with index := l } { u with index := l } := by
  obtain ⟨hframe, hroom, houtside⟩ := h
  exact ⟨by rw [hframe], hroom, houtside⟩

/-- Some number of words were appended, and the index table may have changed. -/
def IndexGrows (s u : State) : Prop := Grows 4 { s with index := u.index } u

theorem composes_indexGrows : Composes fun c c' => Fits c.st.regs → IndexGrows c.st c'.st where
  quiet h _ := by rw [h.st]; exact ⟨0, growsBy_zero 4 _⟩
  trans {_ _ c''} h h' hs := by
    obtain ⟨n, hn⟩ := h hs
    obtain ⟨m, hm⟩ := h' (hn.fits hs)
    exact ⟨n + m, (hn.with_index c''.st.index).trans hm⟩

theorem indexGrows_of_appending {c c' : Run} (h : Appending 4 c c') (hs : Fits c.st.regs) :
    IndexGrows c.st c'.st := by
  obtain ⟨n, hn⟩ := h hs
  have hindex : c'.st.index = c.st.index := by rw [hn.frame]
  exact ⟨n, by rwa [hindex]⟩

theorem indexBucket_indexGrows {g : Grid} {q : Nat} :
    Obeys (fun c c' => Fits c.st.regs → IndexGrows c.st c'.st) (indexBucket g q) :=
  .bind composes_indexGrows (fun _ => .of_ok rfl fun _ => ⟨0, growsBy_zero 4 _⟩) fun _ =>
    appendWords_appending.mono fun _ _ => indexGrows_of_appending

/-- The first `q` buckets of the grid have been indexed from state `s` on: their entries appended, each bucket's slot at
the position of its first entry. -/
def Indexed (g : Grid) (s : State) (q : Nat) (u : State) : Prop :=
  GrowsBy 4 (entriesBefore g.buckets q) { s with index := u.index } u ∧
    ∀ k, k < q → u.index.getD k 0 = s.regs.outCount + BitVec.ofNat 32 (entriesBefore g.buckets k)

theorem indexed_zero (g : Grid) (s : State) : Indexed g s 0 s := by
  refine ⟨?_, fun _ hk => absurd hk (Nat.not_lt_zero _)⟩
  rw [entriesBefore_zero]
  exact growsBy_zero 4 s

theorem indexed_succ {g : Grid} {s : State} {q : Nat} {c c' : Run} (hs : Fits s.regs) (h : Indexed g s q c.st)
    (hok : indexBucket g q c = .ok () c') : Indexed g s (q + 1) c'.st := by
  obtain ⟨hgrow, hslots⟩ := h
  obtain ⟨_, _, hset, happend⟩ := Cmd.bind_eq_ok.mp hok
  cases hset
  have hbucket := growsBy_of_appendWords (by exact hgrow.fits hs) happend
  have hindex : c'.st.index = setSlot c.st.regs.outCount q c.st.index := by rw [hbucket.frame]
  refine ⟨?_, fun k hk => ?_⟩
  · rw [entriesBefore_succ, hindex]
    exact (hgrow.with_index _).trans hbucket
  · rw [hindex, getD_setSlot]
    split
    case isTrue hkq => rw [hgrow.regs, hkq]
    case isFalse hkq => exact hslots k (by omega)

theorem indexed_of_loops {g : Grid} {c c' : Run} (hs : Fits c.st.regs)
    (hok : (Cmd.forRange 0 g.vb fun i => Cmd.forRange 0 g.hb fun j => indexBucket g (i * g.hb + j)) c = .ok () c') :
    Indexed g c.st (g.vb * g.hb) c'.st := by
  have hrow (i : Nat) (d d' : Run) (h : Indexed g c.st (i * g.hb) d.st)
      (hd : Cmd.forRange 0 g.hb (fun j => indexBucket g (i * g.hb + j)) d = .ok () d') :
      Indexed g c.st ((i + 1) * g.hb) d'.st := by
    have := forRange_ok_invariant (fun j d => Indexed g c.st (i * g.hb + j) d.st)
      (fun j d d' h hd => indexed_succ hs h hd) h hd
    rwa [Nat.zero_add, ← Nat.succ_mul] at this
  have := forRange_ok_invariant (fun i d => Indexed g c.st (i * g.hb) d.st) hrow
    (by rw [Nat.zero_mul]; exact indexed_zero g c.st) hok
  rwa [Nat.zero_add] at this

/-- GRID_INDEX stops at its checks; or it finds a valid grid, drops the index and appends, and where it completes the
index has a slot for each bucket and is valid. -/
def GridIndexLeaves (s u : State) : Prop :=
  u = s ∨ s.status.gridValid = true ∧
    (IndexGrows s.dropIndex u ∨ ∃ w, Indexed s.grid s.dropIndex (s.grid.vb * s.grid.hb) w ∧ u = w.validateIndex)

theorem gridIndexBody_leaves {c : Run} :
    EndsIn (gridIndexBody c.st.grid c.st.regs) c fun c' => GridIndexLeaves c.st c'.st := by
  refine .after requireGrid_quiet (fun _ h => .inl h.st) fun _ c1 hvalid h1 => ?_
  have hvalid := gridValid_of_requireGrid hvalid
  refine .after checkWordOutput_quiet (fun _ h => .inl (h.st.trans h1.st)) fun _ c2 hfits h2 => ?_
  have hfits : Fits c.st.dropIndex.regs := fits_of_checkWordOutput hfits
  have hst : c2.st = c.st := h2.st.trans h1.st
  have hstart : IndexGrows c.st.dropIndex c.st.dropIndex := ⟨0, growsBy_zero 4 _⟩
  refine .bind (.of_ok rfl (.inr ⟨hvalid, .inl (by rwa [hst])⟩)) fun _ c3 h3 => ?_
  cases h3
  rw [hst]
  refine .bind ?_ fun _ c4 h4 => ?_
  · have hloops : Obeys (fun c c' => Fits c.st.regs → IndexGrows c.st c'.st)
        (Cmd.forRange 0 c.st.grid.vb fun i => Cmd.forRange 0 c.st.grid.hb fun j =>
          indexBucket c.st.grid (i * c.st.grid.hb + j)) :=
      .forRange composes_indexGrows (fun _ => .forRange composes_indexGrows (fun _ => indexBucket_indexGrows) _ _) _ _
    exact (hloops _).mono fun _ h => .inr ⟨hvalid, .inl (h hfits)⟩
  · exact .of_ok rfl (.inr ⟨hvalid, .inr ⟨c4.st, indexed_of_loops (by exact hfits) h4, rfl⟩⟩)

end Sys2Proof.Proofs
end

section
/-! What every command leaves, said once for all eleven, and the statements that follow: how a command ends, the frame
of an append, and the frame of the grid and the index. -/

namespace Sys2Proof.Proofs

open Sys2Proof.Machine Sys2Proof.Safety

/-! ## The state before the end is recorded -/

/-- What the body of a command leaves of the state it began with, however it ends. -/
def Leaves (i : Instr) (s u : State) : Prop :=
  match i with
  | .detect | .score => MemOnly s u
  | .extract | .gridQuery | .centroid | .describe => Grows 4 s u
  | .atan2 => Grows 1 s u
  | .extractBkt => u = s ∨ Grows 4 s.loseGrid u
  | .gridBucket => GridBucketLeaves s.params s.regs s u
  | .gridReduce => u = s ∨ u = s.reduce
  | .gridIndex => GridIndexLeaves s u

/-- GRID_TOTAL is set at the end of the four grid commands (10_state R41; assumption 17). -/
def refreshed (i : Instr) (u : State) : State := if isGridCommand i then u.refreshTotal else u

/-- Every command ends in what its body leaves, with GRID_TOTAL set where it is a grid command, and its end recorded. -/
theorem exec_leaves {i : Instr} {s t : State} (h : exec i s = .next t) :
    ∃ u, Leaves i s u ∧ EndsAs (refreshed i u) t := by
  cases i with
  | detect => exact endsAs_of_runCommand (last := id) (detectBody_memOnly _) h
  | score => exact endsAs_of_runCommand (last := id) (scoreBody_memOnly _) h
  | extract => exact endsAs_of_runCommand (last := id) (extractBody_grows rfl) h
  | extractBkt => exact endsAs_of_runCommand (last := id) (extractBktBody_leaves rfl) h
  | gridBucket => exact endsAs_of_runCommand (last := State.refreshTotal) gridBucketBody_leaves h
  | gridReduce => exact endsAs_of_runCommand (last := State.refreshTotal) gridReduceBody_leaves h
  | gridIndex => exact endsAs_of_runCommand (last := State.refreshTotal) gridIndexBody_leaves h
  | gridQuery => exact endsAs_of_runCommand (last := State.refreshTotal) (gridQueryBody_grows rfl) h
  | centroid => exact endsAs_of_runCommand (last := id) (centroidBody_grows rfl) h
  | atan2 => exact endsAs_of_runCommand (last := id) (atan2Body_grows rfl) h
  | describe => exact endsAs_of_runCommand (last := id) (describeBody_grows rfl) h

/-- The end of a command changes only STATUS and ERR_INFO, and in STATUS neither GRID_VALID nor INDEX_VALID. -/
theorem EndsAs.frame {u t : State} (h : EndsAs u t) :
    t = { u with status := t.status, errInfo := t.errInfo } ∧ t.status.gridValid = u.status.gridValid ∧
      t.status.indexValid = u.status.indexValid := by
  rcases h with rfl | ⟨e, info, _, rfl⟩ <;> exact ⟨rfl, rfl, rfl⟩

/-- The bits a command ends with (10_state R23, 60_exceptions R272). -/
theorem EndsAs.idle {u t : State} (h : EndsAs u t) :
    t.status.busy = false ∧ t.status.done = true ∧ t.status.wdrop = u.status.wdrop ∧
      (t.status.err = u.status.err ∧ t.status.errCode = u.status.errCode ∧ t.errInfo = u.errInfo ∨
        t.status.err = true ∧ t.status.errCode ≠ .none) := by
  rcases h with rfl | ⟨e, info, he, rfl⟩
  · exact ⟨rfl, rfl, rfl, .inl ⟨rfl, rfl, rfl⟩⟩
  · exact ⟨rfl, rfl, rfl, .inr ⟨rfl, he⟩⟩

/-! ## The registers a command leaves alone -/

/-- The parts of the state that the body of no command changes. -/
structure SameControl (s u : State) : Prop where
  params : u.params = s.params
  cmd : u.cmd = s.cmd
  errInfo : u.errInfo = s.errInfo
  inReset : u.inReset = s.inReset
  inputs : u.inputs = s.inputs
  readData : u.readData = s.readData
  wdrop : u.status.wdrop = s.status.wdrop
  err : u.status.err = s.status.err
  errCode : u.status.errCode = s.status.errCode
  regs : u.regs = { s.regs with outCount := u.regs.outCount }

theorem sameControl_refl (s : State) : SameControl s s := by constructor <;> rfl

theorem MemOnly.sameControl {s u : State} (h : MemOnly s u) : SameControl s u := by
  rw [h]; constructor <;> rfl

theorem GrowsBy.sameControl {e n : Nat} {s u : State} (h : GrowsBy e n s u) : SameControl s u := by
  rw [h.frame]; constructor <;> rfl

theorem SameControl.trans {s s' u : State} (h : SameControl s s') (h' : SameControl s' u) : SameControl s u where
  params := h'.params.trans h.params
  cmd := h'.cmd.trans h.cmd
  errInfo := h'.errInfo.trans h.errInfo
  inReset := h'.inReset.trans h.inReset
  inputs := h'.inputs.trans h.inputs
  readData := h'.readData.trans h.readData
  wdrop := h'.wdrop.trans h.wdrop
  err := h'.err.trans h.err
  errCode := h'.errCode.trans h.errCode
  regs := by rw [h'.regs, h.regs]

theorem sameControl_of_leaves {i : Instr} {s u : State} (h : Leaves i s u) : SameControl s u := by
  have hlose : SameControl s s.loseGrid := by constructor <;> rfl
  cases i with
  | detect | score => exact MemOnly.sameControl h
  | extract | gridQuery | centroid | describe | atan2 => obtain ⟨_, h⟩ := h; exact h.sameControl
  | extractBkt =>
    rcases h with rfl | ⟨_, h⟩
    · exact sameControl_refl u
    · exact hlose.trans h.sameControl
  | gridBucket =>
    rcases h with rfl | rfl | ⟨_, _, rfl⟩
    · exact sameControl_refl u
    · exact hlose
    · constructor <;> rfl
  | gridReduce =>
    rcases h with rfl | rfl
    · exact sameControl_refl u
    · constructor <;> rfl
  | gridIndex =>
    have hdrop (l : List Word) : SameControl s { s.dropIndex with index := l } := by constructor <;> rfl
    rcases h with rfl | ⟨_, ⟨_, h⟩ | ⟨w, ⟨h, _⟩, rfl⟩⟩
    · exact sameControl_refl u
    · exact (hdrop _).trans h.sameControl
    · exact ((hdrop _).trans h.sameControl).trans (by constructor <;> rfl)

theorem sameControl_refreshed {i : Instr} {s u : State} (h : SameControl s u) : SameControl s (refreshed i u) := by
  unfold refreshed
  split
  · exact h.trans (by constructor <;> rfl)
  · exact h

/-- Settles O20: the body changes none of these registers, and the end sets the bits of STATUS. -/
theorem everyCommandEndsIdle : Obligations.EveryCommandEndsIdle := by
  intro i s t h
  obtain ⟨u, hleaves, hend⟩ := exec_leaves h
  have hc := sameControl_refreshed (i := i) (sameControl_of_leaves hleaves)
  obtain ⟨hbusy, hdone, hwdrop, herr⟩ := hend.idle
  obtain ⟨ht, _, _⟩ := hend.frame
  rw [hc.wdrop] at hwdrop
  rw [hc.err, hc.errCode, hc.errInfo] at herr
  refine ⟨hbusy, hdone, hwdrop, herr, fun p hp => ?_, ?_⟩
  · rw [ht]
    dsimp only
    rw [hc.regs]
    exact ParamRegs.get_set_other s.regs (refreshed i u).regs.outCount hp
  · rw [ht]
    exact ⟨hc.cmd, hc.params, hc.inReset, hc.inputs, hc.readData⟩

/-! ## The frame of an append -/

/-- What is left of the output registers and of memory after some number of elements were appended. -/
def OutputGrows (e : Nat) (s u : State) : Prop :=
  ∃ n : Nat, (n = 0 ∨ s.regs.outCount.toNat + n ≤ s.regs.outCap.toNat) ∧
    u.regs = { s.regs with outCount := s.regs.outCount + BitVec.ofNat 32 n } ∧
    u.result = s.result + BitVec.ofNat 32 n ∧
    ∀ a, (a < outStart s.regs e ∨ outStart s.regs e + e * n ≤ a) → Memory.read u.mem a = Memory.read s.mem a

theorem GrowsBy.outputGrows {e n : Nat} {s u : State} (h : GrowsBy e n s u) : OutputGrows e s u :=
  ⟨n, h.room, h.regs, by rw [h.frame], h.outside⟩

theorem outputGrows_refl (e : Nat) (s : State) : OutputGrows e s s := (growsBy_zero e s).outputGrows

theorem outputGrows_of_leaves {i : Instr} {e : Nat} {s u : State} (he : elementSize i = some e) (h : Leaves i s u) :
    OutputGrows e s u := by
  cases i with
  | detect | score | gridBucket | gridReduce => cases he
  | extract | gridQuery | centroid | describe | atan2 => cases he; obtain ⟨_, h⟩ := h; exact h.outputGrows
  | extractBkt =>
    cases he
    rcases h with rfl | ⟨_, h⟩
    · exact outputGrows_refl 4 u
    · exact h.outputGrows
  | gridIndex =>
    cases he
    rcases h with rfl | ⟨_, ⟨_, h⟩ | ⟨w, ⟨h, _⟩, rfl⟩⟩
    · exact outputGrows_refl 4 u
    · exact h.outputGrows
    · exact h.outputGrows

theorem outputGrows_refreshed {i : Instr} {e : Nat} {s u : State} (h : OutputGrows e s u) :
    OutputGrows e s (refreshed i u) := by
  unfold refreshed
  split <;> exact h

/-- Settles O22: the body appends some n elements, and the end of the command touches neither output registers nor
memory. -/
theorem appendingCommandsFrame : Obligations.AppendingCommandsFrame := by
  intro i e s t he h
  obtain ⟨u, hleaves, hend⟩ := exec_leaves h
  rw [hend.frame.1]
  exact outputGrows_refreshed (outputGrows_of_leaves he hleaves)

/-! ## The frame of the grid and the index -/

/-- The grid, and what shows its geometry, are the same. -/
structure SameGrid (s u : State) : Prop where
  params : u.params = s.params
  grid : u.grid = s.grid
  gridDim : u.gridDim = s.gridDim
  gridValid : u.status.gridValid = s.status.gridValid

/-- The grid, the index and everything that shows them are the same. -/
structure SameStorage (s u : State) : Prop extends SameGrid s u where
  gridTotal : u.gridTotal = s.gridTotal
  index : u.index = s.index
  indexValid : u.status.indexValid = s.status.indexValid

theorem sameStorage_refl (s : State) : SameStorage s s := ⟨⟨rfl, rfl, rfl, rfl⟩, rfl, rfl, rfl⟩

theorem SameGrid.trans {s u v : State} (h : SameGrid s u) (h' : SameGrid u v) : SameGrid s v :=
  ⟨h'.params.trans h.params, h'.grid.trans h.grid, h'.gridDim.trans h.gridDim, h'.gridValid.trans h.gridValid⟩

theorem SameStorage.trans {s u v : State} (h : SameStorage s u) (h' : SameStorage u v) : SameStorage s v :=
  ⟨h.toSameGrid.trans h'.toSameGrid, h'.gridTotal.trans h.gridTotal, h'.index.trans h.index,
    h'.indexValid.trans h.indexValid⟩

theorem MemOnly.sameStorage {s u : State} (h : MemOnly s u) : SameStorage s u := by
  rw [h]; exact ⟨⟨rfl, rfl, rfl, rfl⟩, rfl, rfl, rfl⟩

theorem GrowsBy.sameStorage {e n : Nat} {s u : State} (h : GrowsBy e n s u) : SameStorage s u := by
  rw [h.frame]; exact ⟨⟨rfl, rfl, rfl, rfl⟩, rfl, rfl, rfl⟩

theorem EndsAs.sameStorage {u t : State} (h : EndsAs u t) : SameStorage u t := by
  obtain ⟨ht, hgrid, hindex⟩ := h.frame
  rw [ht]
  exact ⟨⟨rfl, rfl, rfl, hgrid⟩, rfl, rfl, hindex⟩

theorem sameGrid_refreshed (i : Instr) (u : State) : SameGrid u (refreshed i u) := by
  unfold refreshed
  split <;> exact ⟨rfl, rfl, rfl, rfl⟩

theorem index_refreshed (i : Instr) (u : State) :
    (refreshed i u).index = u.index ∧ (refreshed i u).status.indexValid = u.status.indexValid := by
  unfold refreshed
  split <;> exact ⟨rfl, rfl⟩

theorem refreshed_of_not_grid {i : Instr} (hi : isGridCommand i = false) (u : State) : refreshed i u = u := by
  rw [refreshed, hi]; rfl

theorem gridTotal_refreshed {i : Instr} (hi : isGridCommand i = true) (u : State) :
    (refreshed i u).gridTotal = if u.status.gridValid then BitVec.ofNat 32 (entryCount u.grid.buckets) else 0 := by
  rw [refreshed, hi]; rfl

/-- The commands that touch neither the grid nor the index (GRID_QUERY only at its end). -/
def sparesStorage : Instr → Bool
  | .detect | .score | .extract | .gridQuery | .centroid | .atan2 | .describe => true
  | .extractBkt | .gridBucket | .gridReduce | .gridIndex => false

theorem sameStorage_of_leaves {i : Instr} {s u : State} (hi : sparesStorage i = true) (h : Leaves i s u) :
    SameStorage s u := by
  cases i with
  | detect | score => exact MemOnly.sameStorage h
  | extract | gridQuery | centroid | describe | atan2 => obtain ⟨_, h⟩ := h; exact h.sameStorage
  | extractBkt | gridBucket | gridReduce | gridIndex => cases hi

theorem sameGrid_of_gridIndex {s u : State} (h : Leaves .gridIndex s u) : SameGrid s u := by
  have hdrop (l : List Word) : SameGrid s { s.dropIndex with index := l } := ⟨rfl, rfl, rfl, rfl⟩
  rcases h with rfl | ⟨_, ⟨_, h⟩ | ⟨w, ⟨h, _⟩, rfl⟩⟩
  · exact (sameStorage_refl u).toSameGrid
  · exact (hdrop _).trans h.sameStorage.toSameGrid
  · exact ((hdrop _).trans h.sameStorage.toSameGrid).trans ⟨rfl, rfl, rfl, rfl⟩

theorem index_of_leaves {i : Instr} {s u : State} (hi : i = .gridBucket ∨ i = .extractBkt) (h : Leaves i s u) :
    u.index = s.index := by
  rcases hi with rfl | rfl
  · rcases h with rfl | rfl | ⟨_, _, rfl⟩ <;> rfl
  · rcases h with rfl | ⟨_, h⟩
    · rfl
    · exact h.sameStorage.index

/-- Settles O23, clause by clause from what the body leaves and from GRID_TOTAL at the end. -/
theorem gridStateFrame : Obligations.GridStateFrame := by
  intro i s t h
  obtain ⟨u, hleaves, hend⟩ := exec_leaves h
  have ht := hend.sameStorage
  have hgrid := (sameGrid_refreshed i u).trans ht.toSameGrid
  have hindex := ht.index.trans (index_refreshed i u).1
  have hvalid := ht.indexValid.trans (index_refreshed i u).2
  refine ⟨fun hi => ?_, fun hi => ?_, fun hi => ?_, fun hi => ?_, fun hi => ?_, fun hi => ?_⟩
  · obtain ⟨hspares, hnot⟩ : sparesStorage i = true ∧ isGridCommand i = false := by
      revert hi; cases i <;> decide
    rw [refreshed_of_not_grid hnot] at ht
    have hs := (sameStorage_of_leaves hspares hleaves).trans ht
    exact ⟨hs.grid, hs.index, hs.gridDim, hs.gridTotal, hs.gridValid, hs.indexValid⟩
  · subst hi
    have hs := sameStorage_of_leaves rfl hleaves
    have hg := hs.toSameGrid.trans hgrid
    exact ⟨hg.grid, hindex.trans hs.index, hg.gridDim, hg.gridValid, hvalid.trans hs.indexValid⟩
  · subst hi
    have hg := (sameGrid_of_gridIndex hleaves).trans hgrid
    exact ⟨hg.grid, hg.gridDim, hg.gridValid⟩
  · subst hi
    rw [hindex, hgrid.grid, hgrid.gridDim, hgrid.gridValid]
    rcases hleaves with rfl | rfl <;> exact ⟨rfl, rfl, rfl, rfl⟩
  · exact hindex.trans (index_of_leaves hi hleaves)
  · rw [ht.gridTotal, gridTotal_refreshed hi, hgrid.gridValid, hgrid.grid]

end Sys2Proof.Proofs
end

section
/-! One step, said once: the host's act leaves the grid alone, runs a command, or releases the reset; and the invariants
that every step keeps. -/

namespace Sys2Proof.Proofs

open Sys2Proof.Machine Sys2Proof.Safety

/-! ## What one act of the host can do -/

/-- What an act of the host that runs no command and releases no reset can do to STATUS (10_state R22, R23, R43). -/
def HostStatus (st st' : Status) : Prop := st' = st ∨ st' = st.dropped ∨ ∃ v, st' = st.writeOneToClear v

/-- Everything one act of the host can do. -/
inductive ActResult (s t : State) : Prop
  | access (hstorage : SameStorage s t) (hstatus : HostStatus s.status t.status)
  | command (v : Word) (hb : s.status.busy = false) (he : s.status.err = false) (h : runWord v (s.accept v) = .next t)
  | release (h : t = s.afterReset)

theorem ActResult.same (s : State) : ActResult s s := .access (sameStorage_refl s) (.inl rfl)

theorem ActResult.drop (s : State) : ActResult s s.drop := .access ⟨⟨rfl, rfl, rfl, rfl⟩, rfl, rfl, rfl⟩ (.inr (.inl rfl))

theorem ActResult.returnRead (s : State) (v : Word) : ActResult s (s.returnRead v) :=
  .access ⟨⟨rfl, rfl, rfl, rfl⟩, rfl, rfl, rfl⟩ (.inl rfl)

theorem acceptsRequest_iff {s : State} : acceptsRequest s = true ↔ s.status.busy = false ∧ s.status.err = false := by
  simp [acceptsRequest]

theorem requestCommand_result {v : Word} {s t : State} (h : requestCommand v s = .next t) : ActResult s t := by
  unfold requestCommand at h
  split at h
  case isTrue hacc =>
    obtain ⟨hb, he⟩ := acceptsRequest_iff.mp hacc
    exact .command v hb he h
  case isFalse => cases h; exact .drop s

theorem writeReg_result {r : RegName} {v : Word} {s t : State} (h : writeReg r v s = .next t) : ActResult s t := by
  cases r with
  | cmd => exact requestCommand_result h
  | status => cases h; exact .access ⟨⟨rfl, rfl, rfl, rfl⟩, rfl, rfl, rfl⟩ (.inr (.inr ⟨v, rfl⟩))
  | param p => cases h; exact .access ⟨⟨rfl, rfl, rfl, rfl⟩, rfl, rfl, rfl⟩ (.inl rfl)
  | errInfo | result | gridDim | gridTotal | cfgMaxK | cfgMaxBuckets => cases h; exact .same s

theorem hostRegWrite_result {width : AccessWidth} {offset : BitVec 8} {v : Word} {s t : State}
    (h : hostRegWrite width offset v s = .next t) : ActResult s t := by
  unfold hostRegWrite at h
  split at h
  · cases h; exact .same s
  split at h
  · split at h
    · cases h; exact .drop s
    cases hreg : accessedReg width offset with
    | none => rw [hreg] at h; cases h; exact .same s
    | some r => rw [hreg] at h; exact writeReg_result h
  · cases h; exact .same s

theorem hostRegRead_result {width : AccessWidth} {offset : BitVec 8} {s t : State}
    (h : hostRegRead width offset s = .next t) : ActResult s t := by
  unfold hostRegRead at h
  split at h
  · cases h; exact .returnRead s 0
  cases hreg : accessedReg width offset with
  | none => rw [hreg] at h; cases h; exact .returnRead s 0
  | some r =>
    rw [hreg] at h
    dsimp only at h
    split at h
    · cases h
    · cases h; exact .returnRead s _

theorem hostMemory_result {next : State → Host.Outcome State Fault Refusal} {s t : State}
    (hnext : next s = .next t → ActResult s t) (h : hostMemory next s = .next t) : ActResult s t := by
  unfold hostMemory at h
  split at h
  · cases h
  · exact hnext h

theorem hostWord_result {a : Word} {next : State → State} {s t : State} (hnext : ActResult s (next s))
    (h : hostWord a next s = .next t) : ActResult s t := by
  unfold hostWord at h
  split at h
  · cases h; exact hnext
  · cases h

theorem ActResult.store (s : State) (a : Nat) (bs : List Byte) : ActResult s (s.store a bs) :=
  .access ⟨⟨rfl, rfl, rfl, rfl⟩, rfl, rfl, rfl⟩ (.inl rfl)

theorem resetDuring_result {v : Word} {s t : State} (h : resetDuring v s = .next t) : ActResult s t := by
  unfold resetDuring at h
  split at h
  · cases h; exact .same s
  split at h
  · cases hrun : runWord v (s.accept v) with
    | next u =>
      rw [hrun] at h
      cases h
      exact .access ⟨⟨rfl, rfl, rfl, rfl⟩, rfl, rfl, rfl⟩ (.inl rfl)
    | fault f => rw [hrun] at h; cases h
    | refused f => rw [hrun] at h; cases h
  · cases h
    exact .access ⟨⟨rfl, rfl, rfl, rfl⟩, rfl, rfl, rfl⟩ (.inr (.inl rfl))

theorem hostEvent_result {e : HostEvent} {s t : State} (h : hostEvent e s = .next t) : ActResult s t := by
  cases e with
  | regWrite width offset v => exact hostRegWrite_result h
  | regRead width offset => exact hostRegRead_result h
  | memWriteByte a v =>
    exact hostMemory_result (next := fun s => .next (s.store a.toNat [v]))
      (fun h => by cases h; exact .store s _ _) h
  | memWriteWord a v => exact hostMemory_result (hostWord_result (.store s _ _)) h
  | memReadByte a =>
    exact hostMemory_result (next := fun s => .next (s.returnRead ((Memory.read s.mem a.toNat).setWidth 32)))
      (fun h => by cases h; exact .returnRead s _) h
  | memReadWord a => exact hostMemory_result (hostWord_result (.returnRead s _)) h
  | resetAssert => cases h; exact .access ⟨⟨rfl, rfl, rfl, rfl⟩, rfl, rfl, rfl⟩ (.inl rfl)
  | resetRelease =>
    cases h
    unfold State.releaseReset
    split
    · exact .release rfl
    · exact .same s
  | resetDuringCommand v => exact resetDuring_result h

/-- Everything one step can do, from the state whose next act has been taken. -/
theorem step_result {s t : State} (h : step s = .next t) : ∃ rest, ActResult { s with inputs := rest } t := by
  cases hin : s.inputs with
  | nil =>
    cases (step_idle hin).symm.trans h
    exact ⟨s.inputs, .same s⟩
  | cons e rest => exact ⟨rest, hostEvent_result ((step_act hin).symm.trans h)⟩

/-- The execution of an accepted word: a command, or BAD_OPCODE on the accepted state (60_exceptions R271). -/
theorem runWord_cases {v : Word} {a t : State} (h : runWord v a = .next t) :
    (∃ i, exec i a = .next t) ∨ EndsAs a t := by
  unfold runWord at h
  split at h
  · exact .inl ⟨_, h⟩
  · cases h; exact .inr (.inr ⟨.badOpcode, v, by simp, rfl⟩)

/-- Settles O18: neither an access nor a command changes them, and the release of reset keeps them. -/
theorem stepKeepsTheParameters : Obligations.StepKeepsTheParameters := by
  intro s t h
  obtain ⟨rest, hact⟩ := step_result h
  cases hact with
  | access hstorage _ => exact hstorage.params
  | release h => rw [h]; rfl
  | command v _ _ hrun =>
    rcases runWord_cases hrun with ⟨i, hexec⟩ | hend
    · obtain ⟨_, _, _, _, _, _, hparams, _⟩ := everyCommandEndsIdle i _ t hexec
      exact hparams
    · exact hend.sameStorage.params

/-! ## STATUS -/

theorem valid_of_leaves {i : Instr} {s u : State} (h : Leaves i s u)
    (hs : s.status.indexValid = true → s.status.gridValid = true) :
    u.status.indexValid = true → u.status.gridValid = true := by
  by_cases hspares : sparesStorage i = true
  · have hsame := sameStorage_of_leaves hspares h
    rwa [hsame.indexValid, hsame.gridValid]
  cases i with
  | detect | score | extract | gridQuery | centroid | atan2 | describe => exact absurd rfl hspares
  | extractBkt =>
    rcases h with rfl | ⟨_, h⟩
    · exact hs
    · rw [h.sameStorage.indexValid]; simp
  | gridBucket =>
    rcases h with rfl | rfl | ⟨_, _, rfl⟩
    · exact hs
    · simp
    · simp
  | gridReduce =>
    rcases h with rfl | rfl
    · exact hs
    · simp
  | gridIndex =>
    have hgrid := (sameGrid_of_gridIndex h).gridValid
    rcases h with rfl | ⟨hv, _⟩
    · exact hs
    · exact fun _ => hgrid.trans hv

theorem EndsAs.statusOk {u t : State} (h : EndsAs u t) (he : u.status.err = false) (hc : u.status.errCode = .none)
    (hv : u.status.indexValid = true → u.status.gridValid = true) : StatusOk t := by
  obtain ⟨hbusy, _, _, herr⟩ := h.idle
  refine ⟨hbusy, ?_, ?_⟩
  · rcases herr with ⟨he', hc', _⟩ | ⟨he', hc'⟩
    · simp [he', hc', he, hc]
    · simp [he', hc']
  · rwa [h.sameStorage.indexValid, h.sameStorage.gridValid]

theorem statusOk_of_exec {i : Instr} {a t : State} (h : exec i a = .next t) (he : a.status.err = false)
    (hc : a.status.errCode = .none) (hv : a.status.indexValid = true → a.status.gridValid = true) : StatusOk t := by
  obtain ⟨u, hleaves, hend⟩ := exec_leaves h
  have hsame := sameControl_refreshed (i := i) (sameControl_of_leaves hleaves)
  refine hend.statusOk (hsame.err.trans he) (hsame.errCode.trans hc) ?_
  rw [(index_refreshed i u).2, (sameGrid_refreshed i u).gridValid]
  exact valid_of_leaves hleaves hv

theorem HostStatus.ok {s t : State} (hst : HostStatus s.status t.status) (hs : StatusOk s) : StatusOk t := by
  obtain ⟨hbusy, hcode, hvalid⟩ := hs
  unfold StatusOk
  rcases hst with h | h | ⟨v, h⟩ <;> rw [h]
  · exact ⟨hbusy, hcode, hvalid⟩
  · exact ⟨hbusy, hcode, hvalid⟩
  · refine ⟨hbusy, ?_, hvalid⟩
    rw [Status.writeOneToClear_err, Status.writeOneToClear_errCode]
    cases v.getLsbD 2
    · simpa using hcode
    · simp

/-- Settles O15. A request is accepted with ERR = 0, and so with ERRCODE = 0; a command sets both or neither. -/
theorem stepKeepsStatusLegal : Obligations.StepKeepsStatusLegal := by
  intro s t hs h
  obtain ⟨rest, hact⟩ := step_result h
  cases hact with
  | access _ hstatus => exact hstatus.ok hs
  | release h => rw [h]; simp [StatusOk, Status.zero]
  | command v _ he hrun =>
    obtain ⟨_, hcode, hvalid⟩ := hs
    rcases runWord_cases hrun with ⟨i, hexec⟩ | hend
    · exact statusOk_of_exec hexec he (hcode.mp he) hvalid
    · exact hend.statusOk he (hcode.mp he) hvalid

end Sys2Proof.Proofs
end

section
/-! The invariants of the grid and of the index table, kept by every step. -/

namespace Sys2Proof.Proofs

open Sys2Proof.Machine Sys2Proof.Safety

/-! ## The grid -/

/-- A valid grid is legal and GRID_DIM shows its bucket numbers; without one GRID_DIM reads 0 (10_state R40, R47). -/
def GridShown (s : State) : Prop :=
  (s.status.gridValid = true → LegalGrid s.params s.grid ∧ s.gridDim = gridDimWord s.grid.hb s.grid.vb) ∧
    (s.status.gridValid = false → s.gridDim = 0)

/-- GRID_TOTAL shows the count of a valid grid, and 0 without one (10_state R41). -/
def TotalShown (s : State) : Prop :=
  s.gridTotal = if s.status.gridValid then BitVec.ofNat 32 (entryCount s.grid.buckets) else 0

theorem gridOk_iff {s : State} : GridOk s ↔ GridShown s ∧ TotalShown s := by
  unfold GridOk GridShown TotalShown LegalGrid
  cases s.status.gridValid <;> simp [and_assoc]

theorem SameGrid.gridShown {s u : State} (h : SameGrid s u) (hs : GridShown s) : GridShown u := by
  unfold GridShown
  rw [h.params, h.grid, h.gridDim, h.gridValid]
  exact hs

theorem SameStorage.gridOk {s u : State} (h : SameStorage s u) (hs : GridOk s) : GridOk u := by
  rw [gridOk_iff] at *
  refine ⟨h.toSameGrid.gridShown hs.1, ?_⟩
  unfold TotalShown
  rw [h.grid, h.gridTotal, h.gridValid]
  exact hs.2

theorem gridOk_of_no_grid {s : State} (hv : s.status.gridValid = false) (hdim : s.gridDim = 0) (ht : s.gridTotal = 0) :
    GridOk s := by
  simp [GridOk, hv, hdim, ht]

theorem gridShown_of_leaves {i : Instr} {s u : State} (h : Leaves i s u) (hs : GridShown s) : GridShown u := by
  have hlost : GridShown s.loseGrid := by simp [GridShown]
  by_cases hspares : sparesStorage i = true
  · exact (sameStorage_of_leaves hspares h).toSameGrid.gridShown hs
  cases i with
  | detect | score | extract | gridQuery | centroid | atan2 | describe => exact absurd rfl hspares
  | extractBkt =>
    rcases h with rfl | ⟨_, h⟩
    · exact hs
    · exact h.sameStorage.toSameGrid.gridShown hlost
  | gridBucket =>
    rcases h with rfl | rfl | ⟨_, hlegal, rfl⟩
    · exact hs
    · exact hlost
    · exact ⟨fun _ => ⟨hlegal, rfl⟩, fun hv => by simp at hv⟩
  | gridReduce =>
    rcases h with rfl | rfl
    · exact hs
    · exact ⟨fun hv => ⟨(hs.1 hv).1.reduce, (hs.1 hv).2⟩, hs.2⟩
  | gridIndex => exact (sameGrid_of_gridIndex h).gridShown hs

/-- GRID_TOTAL still shows the count after a command that does not set it at its end. -/
theorem totalShown_of_leaves {i : Instr} {s u : State} (hi : isGridCommand i = false) (h : Leaves i s u)
    (hs : TotalShown s) : TotalShown u := by
  by_cases hspares : sparesStorage i = true
  · have hsame := sameStorage_of_leaves hspares h
    unfold TotalShown
    rw [hsame.grid, hsame.gridTotal, hsame.gridValid]
    exact hs
  cases i with
  | detect | score | extract | gridQuery | centroid | atan2 | describe => exact absurd rfl hspares
  | gridBucket | gridReduce | gridIndex => cases hi
  | extractBkt =>
    rcases h with rfl | ⟨_, h⟩
    · exact hs
    · unfold TotalShown
      rw [h.sameStorage.gridTotal, h.sameStorage.gridValid]
      rfl

theorem gridOk_of_exec {i : Instr} {a t : State} (h : exec i a = .next t) (ha : GridOk a) : GridOk t := by
  obtain ⟨hshown, htotal⟩ := gridOk_iff.mp ha
  obtain ⟨u, hleaves, hend⟩ := exec_leaves h
  refine hend.sameStorage.gridOk (gridOk_iff.mpr ⟨?_, ?_⟩)
  · exact (sameGrid_refreshed i u).gridShown (gridShown_of_leaves hleaves hshown)
  · cases hi : isGridCommand i with
    | false => rw [refreshed_of_not_grid hi]; exact totalShown_of_leaves hi hleaves htotal
    | true =>
      unfold TotalShown
      rw [gridTotal_refreshed hi, (sameGrid_refreshed i u).gridValid, (sameGrid_refreshed i u).grid]

/-- Settles O16: a command keeps it by what its body leaves, any other act leaves the grid alone or resets it. -/
theorem stepKeepsTheGridLegal : Obligations.StepKeepsTheGridLegal := by
  intro s t hs h
  obtain ⟨rest, hact⟩ := step_result h
  cases hact with
  | access hstorage _ => exact hstorage.gridOk hs
  | release h => rw [h]; exact gridOk_of_no_grid rfl rfl rfl
  | command v _ _ hrun =>
    rcases runWord_cases hrun with ⟨i, hexec⟩ | hend
    · exact gridOk_of_exec hexec hs
    · exact hend.sameStorage.gridOk hs

/-! ## The index table -/

theorem SameStorage.indexOk {s u : State} (h : SameStorage s u) (hs : IndexOk s) : IndexOk u := by
  unfold IndexOk
  rw [h.grid, h.index, h.indexValid]
  exact hs

theorem indexOk_of_not_valid {s : State} (h : s.status.indexValid = false) : IndexOk s := by
  simp [IndexOk, h]

/-- Where OUT_COUNT words have been appended before, the entries of the first buckets end below 2^32, since OUT_COUNT does
not pass OUT_CAP; and each bucket's slot has the position of its first entry (43_feature_grid R203). -/
theorem Indexed.indexOk {s w : State} (h : Indexed s.grid s (s.grid.vb * s.grid.hb) w) : IndexOk w.validateIndex := by
  obtain ⟨hgrow, hslots⟩ := h
  have hgrid : w.validateIndex.grid = s.grid := hgrow.sameStorage.grid
  intro _
  refine ⟨s.regs.outCount.toNat, fun q hq => ?_⟩
  rw [hgrid] at hq ⊢
  have hmono := entriesBefore_mono (bs := s.grid.buckets) hq.le
  have htotal := hgrow.outCount_toNat
  have hcount := w.regs.outCount.isLt
  refine ⟨by dsimp only at htotal; omega, ?_⟩
  rw [State.validateIndex_index, hslots q hq, BitVec.ofNat_add, BitVec.ofNat_toNat, BitVec.setWidth_eq]

theorem indexOk_of_leaves {i : Instr} {s u : State} (h : Leaves i s u) (hs : IndexOk s) : IndexOk u := by
  by_cases hspares : sparesStorage i = true
  · exact (sameStorage_of_leaves hspares h).indexOk hs
  cases i with
  | detect | score | extract | gridQuery | centroid | atan2 | describe => exact absurd rfl hspares
  | extractBkt =>
    rcases h with rfl | ⟨_, h⟩
    · exact hs
    · exact indexOk_of_not_valid h.sameStorage.indexValid
  | gridBucket =>
    rcases h with rfl | rfl | ⟨_, _, rfl⟩
    · exact hs
    · exact indexOk_of_not_valid rfl
    · exact indexOk_of_not_valid rfl
  | gridReduce =>
    rcases h with rfl | rfl
    · exact hs
    · exact indexOk_of_not_valid rfl
  | gridIndex =>
    rcases h with rfl | ⟨_, ⟨_, h⟩ | ⟨_, h, rfl⟩⟩
    · exact hs
    · exact indexOk_of_not_valid h.sameStorage.indexValid
    · exact Indexed.indexOk (s := State.dropIndex _) h

theorem indexOk_of_exec {i : Instr} {a t : State} (h : exec i a = .next t) (ha : IndexOk a) : IndexOk t := by
  obtain ⟨u, hleaves, hend⟩ := exec_leaves h
  refine hend.sameStorage.indexOk ?_
  unfold IndexOk
  rw [(index_refreshed i u).1, (index_refreshed i u).2, (sameGrid_refreshed i u).grid]
  exact indexOk_of_leaves hleaves ha

/-- Settles O17: only GRID_INDEX makes an index valid, once every slot has its bucket's start. -/
theorem stepKeepsTheIndexLegal : Obligations.StepKeepsTheIndexLegal := by
  intro s t hs h
  obtain ⟨rest, hact⟩ := step_result h
  cases hact with
  | access hstorage _ => exact hstorage.indexOk hs
  | release h => rw [h]; exact indexOk_of_not_valid rfl
  | command v _ _ hrun =>
    rcases runWord_cases hrun with ⟨i, hexec⟩ | hend
    · exact indexOk_of_exec hexec hs
    · exact hend.sameStorage.indexOk hs

end Sys2Proof.Proofs
end

section
/-! The register window: the fields of STATUS, reads, writes that are dropped or ignored, and the return from an error. -/

namespace Sys2Proof.Proofs

open Sys2Proof.Machine Sys2Proof.Safety

/-! ## Register accesses, one step each -/

/-- A step whose act writes a register, in a block that is neither in reset nor busy. -/
theorem step_hostWr {s : State} {r : RegName} {v : Word} {rest : List HostEvent} (hr : s.inReset = false)
    (hb : s.status.busy = false) (hact : s.inputs = hostWr r v :: rest) :
    step s = writeReg r v { s with inputs := rest } :=
  (step_act hact).trans (hostRegWrite_idle r v hr hb)

/-- A step whose act reads a register, in a block that is neither in reset nor busy. -/
theorem step_hostRd {s : State} {r : RegName} {v : Word} {rest : List HostEvent} (hr : s.inReset = false)
    (hb : s.status.busy = false) (hact : s.inputs = hostRd r :: rest) (hv : readReg s r = v) :
    step s = .next { s with inputs := rest, readData := v } := by
  rw [← hv]
  exact (step_act hact).trans (hostRegRead_idle r hr hb)

/-- Settles O6: each offset is that of its register. -/
theorem registerReadsShowTheState : Obligations.RegisterReadsShowTheState := by
  intro s offset rest v hr hb hact hreg
  obtain ⟨r, rfl, rfl⟩ : ∃ r : RegName, offset = r.offset ∧ v = readReg s r := by
    rcases hreg with h | h | h | h | h | h | h | h | ⟨p, h⟩
    · exact ⟨.cmd, h⟩
    · exact ⟨.status, h⟩
    · exact ⟨.errInfo, h⟩
    · exact ⟨.result, h⟩
    · exact ⟨.gridDim, h⟩
    · exact ⟨.gridTotal, h⟩
    · exact ⟨.cfgMaxK, h⟩
    · exact ⟨.cfgMaxBuckets, h⟩
    · exact ⟨.param p, h⟩
  exact step_hostRd hr hb hact rfl

/-- Settles O9: the write sets the register, and the read finds it. -/
theorem parameterRegistersKeepWhatIsWritten : Obligations.ParameterRegistersKeepWhatIsWritten := by
  intro s p v rest hr hb hact
  have hsame : (s.regs.set p v).get p = v := ParamRegs.get_set_same s.regs p v
  exact ⟨{ s with regs := s.regs.set p v, inputs := hostRd (.param p) :: rest }, step_hostWr hr hb hact, rfl,
    fun q hq => ParamRegs.get_set_other s.regs v hq, hsame, step_hostRd hr hb rfl hsame⟩

/-! ## The return from an error -/

theorem decode_encode (i : Instr) : decode (encode i) = .ok i := by cases i <;> decide

/-- What a write of 0x00000006 clears: DONE, ERR and ERRCODE (10_state R23). -/
theorem writeOneToClear_six (st : Status) :
    st.writeOneToClear 6 = { st with done := false, err := false, errCode := .none } := by
  simp [Status.writeOneToClear]

/-- Settles O8: the write clears ERR, so the block takes the next request. -/
theorem clearingErrLetsTheNextCommandRun : Obligations.ClearingErrLetsTheNextCommandRun := by
  intro s i rest hr hb hact
  have hclear := step_hostWr hr hb hact
  unfold writeReg at hclear
  dsimp only at hclear
  rw [writeOneToClear_six] at hclear
  exact ⟨_, hclear, rfl, rfl, rfl, rfl,
    Eq.trans (step_request_of_ready ⟨hr, hb, rfl⟩ rfl) (runWord_of_decode (decode_encode i) _)⟩

/-! ## Dropped and ignored accesses -/

/-- A write to a register while BUSY = 1 is dropped (10_state R43). -/
theorem hostRegWrite_busy (r : RegName) (v : Word) {s : State} (hr : s.inReset = false) (hb : s.status.busy = true) :
    hostRegWrite .w32 r.offset v s = .next s.drop := by
  simp [hostRegWrite, hr, hb, wellFormedAccess, RegName.offset_aligned]

/-- A request while ERR = 1 is dropped (10_state R22). -/
theorem requestCommand_error (v : Word) {s : State} (he : s.status.err = true) :
    requestCommand v s = .next s.drop := by
  simp [requestCommand, acceptsRequest, he]

theorem offset_of_paramAtIn {offset : BitVec 8} {ps : List ParamReg} {p : ParamReg}
    (h : paramAtIn offset ps = some p) : offset = p.offset := by
  induction ps with
  | nil => cases h
  | cons q ps ih =>
    unfold paramAtIn at h
    split at h
    case isTrue hq => cases h; exact hq.symm
    case isFalse => exact ih h

/-- A register is found at its own offset only. -/
theorem offset_of_regAt {offset : BitVec 8} {r : RegName} (h : regAt offset = some r) : offset = r.offset := by
  unfold regAt at h
  split at h
  case h_9 =>
    obtain ⟨p, hp, rfl⟩ := Option.map_eq_some_iff.mp h
    exact offset_of_paramAtIn hp
  all_goals
    cases h
    exact BitVec.eq_of_toNat_eq ‹_›

theorem offset_lt_reserved (r : RegName) : r.offset.toNat < 0x7C := by
  cases r with
  | param p => cases p <;> decide
  | _ => decide

/-- An access that is not 32 bits wide or not 4-aligned, or at a reserved offset past the last register, reaches no
register (10_state R21). -/
theorem accessedReg_eq_none {width : AccessWidth} {offset : BitVec 8}
    (h : width ≠ .w32 ∨ offset.toNat % 4 ≠ 0 ∨ 0x7C ≤ offset.toNat) : accessedReg width offset = none := by
  cases width with
  | w8 | w16 | w64 => rfl
  | w32 =>
    refine Option.eq_none_iff_forall_ne_some.mpr fun r hreg => ?_
    have hoff := offset_of_regAt hreg
    have haligned := r.offset_aligned
    have hlt := offset_lt_reserved r
    rw [← hoff] at haligned hlt
    rcases h with h | h | h
    · exact h rfl
    · exact h haligned
    · omega

theorem hostRegWrite_ignored {width : AccessWidth} {offset : BitVec 8} (v : Word) {s : State}
    (hb : s.status.busy = false) (h : accessedReg width offset = none) : hostRegWrite width offset v s = .next s := by
  simp [hostRegWrite, hb, h]

theorem hostRegRead_ignored {width : AccessWidth} {offset : BitVec 8} {s : State}
    (h : accessedReg width offset = none) : hostRegRead width offset s = .next (s.returnRead 0) := by
  simp [hostRegRead, h]

/-- Settles O5, clause by clause. -/
theorem droppedAndIgnoredRegisterAccesses : Obligations.DroppedAndIgnoredRegisterAccesses := by
  intro s rest hr
  refine ⟨fun v he hact => ?_, fun r v hb hact => ?_, fun r v hb hact hro => ?_, fun width offset v hb hbad => ⟨?_, ?_⟩⟩
  · cases hb : s.status.busy with
    | true => exact (step_act hact).trans (hostRegWrite_busy .cmd v hr hb)
    | false => exact (step_hostWr hr hb hact).trans (requestCommand_error v he)
  · exact (step_act hact).trans (hostRegWrite_busy r v hr hb)
  · rw [step_hostWr hr hb hact]
    cases r with
    | cmd | status | param p => simp at hro
    | errInfo | result | gridDim | gridTotal | cfgMaxK | cfgMaxBuckets => rfl
  · exact fun hact => (step_act hact).trans (hostRegWrite_ignored v hb (accessedReg_eq_none hbad))
  · exact fun hact => (step_act hact).trans (hostRegRead_ignored (accessedReg_eq_none hbad))

/-! ## STATUS -/

/-- The flags stand at bits 0 to 3, 16 and 17 (10_state R23). -/
theorem word_flags (st : Status) :
    st.word.getLsbD 0 = st.busy ∧ st.word.getLsbD 1 = st.done ∧ st.word.getLsbD 2 = st.err ∧
      st.word.getLsbD 3 = st.wdrop ∧ st.word.getLsbD 16 = st.gridValid ∧ st.word.getLsbD 17 = st.indexValid := by
  simp only [Status.word, BitVec.getLsbD_append]
  simp

/-- ERRCODE stands at bits 8 to 11. -/
theorem word_errCode (st : Status) : st.word.extractLsb' 8 4 = st.errCode.code := by
  apply BitVec.eq_of_getLsbD_eq
  intro i hi
  simp only [Status.word, BitVec.getLsbD_append, BitVec.getLsbD_extractLsb']
  simp [hi]

/-- Every bit outside the fields reads 0. -/
theorem word_reserved (st : Status) {i : Nat} (h : 4 ≤ i ∧ i < 8 ∨ 12 ≤ i ∧ i < 16 ∨ 18 ≤ i) :
    st.word.getLsbD i = false := by
  simp only [Status.word, BitVec.getLsbD_append]
  simp only [BitVec.getLsbD_ofBool]
  grind

/-- A run of bits that all read 0. -/
theorem extractLsb'_eq_zero {w : Word} {start len : Nat} (h : ∀ i, i < len → w.getLsbD (start + i) = false) :
    w.extractLsb' start len = 0 := by
  apply BitVec.eq_of_getLsbD_eq
  intro i hi
  simp [hi, h i hi]

/-- Settles O7: the fields by their places in the word, the clears by the step that writes STATUS. -/
theorem statusRegisterFieldsAndClears : Obligations.StatusRegisterFieldsAndClears := by
  refine ⟨fun st => ?_, by decide, fun s v rest hr hb hact => step_hostWr hr hb hact⟩
  obtain ⟨hbusy, hdone, herr, hwdrop, hgrid, hindex⟩ := word_flags st
  have hzero (start len : Nat) (h : ∀ i, i < len →
      4 ≤ start + i ∧ start + i < 8 ∨ 12 ≤ start + i ∧ start + i < 16 ∨ 18 ≤ start + i) :
      st.word.extractLsb' start len = 0 := extractLsb'_eq_zero fun i hi => word_reserved st (h i hi)
  exact ⟨hbusy, hdone, herr, hwdrop, hzero 4 4 (by omega), word_errCode st, hzero 12 4 (by omega), hgrid, hindex,
    hzero 18 14 (by omega)⟩

end Sys2Proof.Proofs
end

section
/-! A command cut in three: its checks, the work that its checks let in, and what it sets when the work is done. What an
error check, and the whole list of them, does (60_exceptions R273, R288). -/

namespace Sys2Proof.Proofs

open Sys2Proof.Machine Sys2Proof.Safety

variable {α β γ : Type}

/-! ## Sequencing -/

theorem bind_assoc (x : Cmd α) (f : α → Cmd β) (g : β → Cmd γ) :
    Cmd.bind (Cmd.bind x f) g = Cmd.bind x fun a => Cmd.bind (f a) g := by
  funext c
  simp only [Cmd.bind]
  cases x c <;> rfl

theorem bind_pure_unit (x : Cmd Unit) : Cmd.bind x (fun _ => Cmd.pure ()) = x := by
  funext c
  simp only [Cmd.bind]
  cases x c <;> rfl

theorem pure_bind (a : α) (f : α → Cmd β) : Cmd.bind (Cmd.pure a) f = f a := rfl

/-! ## The list of checks, run -/

/-- A list of checks as a part of a command: the first that fails raises BAD_PARAM. -/
def runChecks : List Check → Cmd Unit
  | [] => Cmd.pure ()
  | (bad, info) :: rest => if bad then Cmd.raise .badParam info else runChecks rest

theorem runChecks_ok {l : List Check} (h : firstFailed l = none) (c : Run) : runChecks l c = .ok () c := by
  induction l with
  | nil => rfl
  | cons k l ih =>
    obtain ⟨bad, info⟩ := k
    cases bad
    · exact ih h
    · cases h

theorem runChecks_err {l : List Check} {info : Word} (h : firstFailed l = some info) (c : Run) :
    runChecks l c = .err .badParam info c := by
  induction l with
  | nil => cases h
  | cons k l ih =>
    obtain ⟨bad, info'⟩ := k
    cases bad
    · exact ih h
    · cases h; rfl

theorem bind_runChecks (l l' : List Check) :
    Cmd.bind (runChecks l) (fun _ => runChecks l') = runChecks (l ++ l') := by
  induction l with
  | nil => rfl
  | cons k l ih =>
    obtain ⟨bad, info⟩ := k
    cases bad
    · exact ih
    · rfl

theorem check_eq (bad : Bool) (reg : ParamReg) : check bad reg = runChecks [(bad, reg.offset.setWidth 32)] := by
  cases bad <;> rfl

theorem checkRaster_eq (r : ParamRegs) : checkRaster r = runChecks (rasterChecks r) := by
  simp only [checkRaster, check_eq, bind_runChecks]
  rfl

theorem checkBorder_eq (r : ParamRegs) (least : Nat) : checkBorder r least = runChecks [borderCheck r least] := by
  simp only [checkBorder, check_eq]
  rfl

theorem checkBuckets_eq (p : Params) (r : ParamRegs) : checkBuckets p r = runChecks (bucketChecks p r) := by
  simp only [checkBuckets, check_eq, bind_runChecks, bucketChecks, Nat.lt_one_iff, Bool.decide_or]
  rfl

theorem checkInBase_eq (r : ParamRegs) : checkInBase r = runChecks [inBaseCheck r] := check_eq _ _

theorem checkOutCount_eq (r : ParamRegs) : checkOutCount r = runChecks [outCountCheck r] := check_eq _ _

theorem checkWordOutput_eq (r : ParamRegs) : checkWordOutput r = runChecks [outBaseCheck r, outCountCheck r] := by
  simp only [checkWordOutput, checkOutBase, checkOutCount_eq, check_eq, bind_runChecks]
  rfl

theorem walkChecks_eq (r : ParamRegs) : walkChecks r = runChecks (rasterChecks r ++ [borderCheck r 2]) := by
  simp only [walkChecks, checkRaster_eq, checkBorder_eq, bind_runChecks]

theorem requireGrid_apply (c : Run) :
    requireGrid c = if c.st.status.gridValid then .ok () c else .err .noGrid 0 c := by
  simp only [requireGrid, Cmd.bind, Cmd.get_apply]
  split <;> rfl

theorem requireIndex_apply (c : Run) :
    requireIndex c = if c.st.status.indexValid then .ok () c else .err .noGrid 1 c := by
  simp only [requireIndex, Cmd.bind, Cmd.get_apply]
  split <;> rfl

/-! ## The three parts of a command -/

/-- The body of each command. -/
def body (i : Instr) (s : State) : Cmd Unit :=
  match i with
  | .detect => detectBody s.params s.regs
  | .score => scoreBody s.params s.regs
  | .extract => extractBody s.params s.regs
  | .extractBkt => extractBktBody s.params s.regs
  | .gridBucket => gridBucketBody s.params s.regs
  | .gridReduce => gridReduceBody s.regs
  | .gridIndex => gridIndexBody s.grid s.regs
  | .gridQuery => gridQueryBody s.grid s.index s.regs
  | .centroid => centroidBody s.params s.regs
  | .atan2 => atan2Body s.regs
  | .describe => describeBody s.params s.regs

theorem exec_eq (i : Instr) (s : State) : exec i s = runCommand (refreshed i) (body i s) s := by
  cases i <;> rfl

/-- The grid and the index that a command needs (60_exceptions R277). -/
def requires : Instr → Cmd Unit
  | .gridReduce | .gridIndex => requireGrid
  | .gridQuery => Cmd.bind requireGrid fun _ => requireIndex
  | .detect | .score | .extract | .extractBkt | .gridBucket | .centroid | .atan2 | .describe => Cmd.pure ()

theorem requires_ok {i : Instr} {c : Run} (h : missingGrid c.st i = none) : requires i c = .ok () c := by
  cases i with
  | gridReduce | gridIndex | gridQuery =>
    simp only [missingGrid] at h
    simp only [requires, Cmd.bind, requireGrid_apply, requireIndex_apply]
    grind
  | detect | score | extract | extractBkt | gridBucket | centroid | atan2 | describe => rfl

theorem requires_err {i : Instr} {c : Run} {info : Word} (h : missingGrid c.st i = some info) :
    requires i c = .err .noGrid info c := by
  cases i with
  | gridReduce | gridIndex | gridQuery =>
    simp only [missingGrid] at h
    simp only [requires, Cmd.bind, requireGrid_apply, requireIndex_apply]
    grind
  | detect | score | extract | extractBkt | gridBucket | centroid | atan2 | describe => cases h

/-- The checks of a command, NO_GRID's before the others (60_exceptions R288). -/
def checks (i : Instr) (s : State) : Cmd Unit :=
  Cmd.bind (requires i) fun _ => runChecks (paramChecks s.params s.regs i)

/-- The read footprint that a command declares once its checks have passed (assumption 4). -/
def declaredReads (s : State) : Instr → List Span
  | .detect => detectReadSpans s.regs
  | .score => scoreReadSpans s.params s.regs s.mem
  | .extract | .extractBkt => walkReadSpans s.regs
  | .gridBucket | .gridReduce | .gridIndex | .gridQuery => []
  | .centroid => [(s.regs.inBase.toNat, 4 * s.regs.inCount.toNat)]
  | .atan2 => atan2ReadSpans s.regs
  | .describe => describeReadSpans s.params s.regs s.mem

/-- How many elements a command counts in its write footprint. -/
def declaredOutput (s : State) : Instr → Nat
  | .extract => (survivorsIn s.params s.regs s.mem).length
  | .extractBkt => entryCount (fillGrid s.regs (survivorsIn s.params s.regs s.mem))
  | .centroid => 8 * groups s.regs
  | .atan2 => s.regs.inCount.toNat
  | .describe => s.regs.descN.toNat * s.regs.inCount.toNat
  | .detect | .score | .gridBucket | .gridReduce | .gridIndex | .gridQuery => 0

/-- The write footprint that a command declares once its checks have passed. -/
def declaredWrites (s : State) : Instr → List Span
  | .detect => detectWriteSpans s.regs
  | .score => scoreWriteSpans s.params s.regs s.mem
  | .extract => [outSpan s.regs 4 (declaredOutput s .extract)]
  | .extractBkt => [outSpan s.regs 4 (declaredOutput s .extractBkt)]
  | .centroid => [outSpan s.regs 4 (declaredOutput s .centroid)]
  | .atan2 => [outSpan s.regs 1 (declaredOutput s .atan2)]
  | .describe => [outSpan s.regs 4 (declaredOutput s .describe)]
  | .gridBucket | .gridReduce | .gridIndex | .gridQuery => []

/-- The state that the work of a command begins with: the grid or the index is lost first. -/
def enteredState (i : Instr) (s : State) : State :=
  match i with
  | .extractBkt | .gridBucket => s.loseGrid
  | .gridIndex => s.dropIndex
  | .detect | .score | .extract | .gridReduce | .gridQuery | .centroid | .atan2 | .describe => s

/-- The run that the work of a command begins with. -/
def entered (i : Instr) (s : State) : Run := ⟨enteredState i s, declaredReads s i, declaredWrites s i, []⟩

/-- What a command does between its checks and its work: it declares its footprints, and loses the grid or the index. -/
def enter (i : Instr) (s : State) : Cmd Unit :=
  let p := s.params
  let r := s.regs
  match i with
  | .detect => declareFootprint (detectReadSpans r) (detectWriteSpans r)
  | .score => Cmd.bind (Cmd.get State.mem) fun m => declareFootprint (scoreReadSpans p r m) (scoreWriteSpans p r m)
  | .extract =>
    Cmd.bind (Cmd.get State.mem) fun m =>
      declareFootprint (walkReadSpans r) [outSpan r 4 (survivorsIn p r m).length]
  | .extractBkt =>
    Cmd.bind (Cmd.get State.mem) fun m =>
      Cmd.bind (declareFootprint (walkReadSpans r) [outSpan r 4 (entryCount (fillGrid r (survivorsIn p r m)))]) fun _ =>
        Cmd.modify State.loseGrid
  | .gridBucket => Cmd.modify State.loseGrid
  | .gridIndex => Cmd.modify State.dropIndex
  | .gridReduce | .gridQuery => Cmd.pure ()
  | .centroid =>
    declareFootprint [(r.inBase.toNat, 4 * r.inCount.toNat)] [outSpan r 4 (8 * ((r.inCount.toNat + 3) / 4))]
  | .atan2 => declareFootprint (atan2ReadSpans r) [outSpan r 1 r.inCount.toNat]
  | .describe =>
    Cmd.bind (Cmd.get State.mem) fun m =>
      declareFootprint (describeReadSpans p r m) [outSpan r 4 (r.descN.toNat * r.inCount.toNat)]

/-- The work of a command: everything between its checks and what it sets at its completion. -/
def work (i : Instr) (s : State) : Cmd Unit :=
  let p := s.params
  let r := s.regs
  match i with
  | .detect => Cmd.forRange r.border.toNat (innerExtent r.height r.border) (detectRow p r)
  | .score =>
    Cmd.forRange r.border.toNat (innerExtent r.height r.border) fun y =>
      Cmd.forRange r.border.toNat (innerExtent r.width r.border) (scorePixel p r y)
  | .extract => walk r fun v => appendWord v.word
  | .extractBkt =>
    Cmd.bind (resetStripe (gridCols r)) fun _ => Cmd.forRange 0 (gridRows r) fun i =>
      Cmd.bind (fillStripe r i) fun _ => flushStripe (gridCols r)
  | .gridBucket =>
    Cmd.bind (Cmd.modifyBuckets fun _ => emptyBuckets (gridCols r * gridRows r)) fun _ =>
      walk r fun v => Cmd.modifyBuckets (insertInto r.bktK.toNat v.word
        (ownerBucket (gridCols r) r.border.toNat r.logBkt.toNat v.x v.y))
  | .gridReduce => Cmd.pure ()
  | .gridIndex =>
    Cmd.forRange 0 s.grid.vb fun i => Cmd.forRange 0 s.grid.hb fun j => indexBucket s.grid (i * s.grid.hb + j)
  | .gridQuery =>
    if s.grid.hb = 0 ∨ s.grid.vb = 0 then Cmd.pure ()
    else queryCells s.grid s.index r.qX.toInt r.qY.toInt r.qR.toInt
  | .centroid => Cmd.forRange 0 ((r.inCount.toNat + 3) / 4) (centroidGroup p r)
  | .atan2 => Cmd.forRange 0 r.inCount.toNat (atan2Pair r)
  | .describe => Cmd.forRange 0 r.inCount.toNat (describeKeypoint p r)

/-- What a command sets once its work is done. -/
def finale (i : Instr) (s : State) : Cmd Unit :=
  match i with
  | .gridBucket => Cmd.bind Cmd.getBuckets fun bs => Cmd.modify fun u => u.installGrid (builtGrid s.regs bs)
  | .gridReduce => Cmd.modify State.reduce
  | .gridIndex => Cmd.modify State.validateIndex
  | .detect | .score | .extract | .extractBkt | .gridQuery | .centroid | .atan2 | .describe => Cmd.pure ()

/-- What the work of a command, and what follows it, does from the run it begins with. -/
def worked (i : Instr) (s : State) : CmdResult Unit := Cmd.bind (work i s) (fun _ => finale i s) (entered i s)

/-- Whether a command passes its checks. -/
abbrev Passes (i : Instr) (s : State) : Prop := Legal i s ∧ missingGrid s i = none

theorem checks_ok {i : Instr} {s : State} (h : Passes i s) : checks i s s.begin = .ok () s.begin :=
  (Cmd.bind_ok (requires_ok h.2)).trans (runChecks_ok h.1 _)

/-- A check that fails ends the command with BAD_PARAM or NO_GRID, nothing changed. -/
theorem checks_err {i : Instr} {s : State} (h : ¬ Passes i s) :
    ∃ e info, checks i s s.begin = .err e info s.begin ∧ (e = .badParam ∨ e = .noGrid) := by
  cases hgrid : missingGrid s i with
  | some info => exact ⟨.noGrid, info, Cmd.bind_err (requires_err hgrid), .inr rfl⟩
  | none =>
    obtain ⟨info, hinfo⟩ := Option.ne_none_iff_exists'.mp fun hlegal => h ⟨hlegal, hgrid⟩
    exact ⟨.badParam, info, (Cmd.bind_ok (requires_ok hgrid)).trans (runChecks_err hinfo _), .inl rfl⟩

theorem bind_runChecks_bind (l l' : List Check) (f : Unit → Cmd α) :
    Cmd.bind (runChecks l) (fun _ => Cmd.bind (runChecks l') f) = Cmd.bind (runChecks (l ++ l')) f := by
  rw [← bind_runChecks, bind_assoc]

theorem body_eq (i : Instr) (s : State) :
    body i s =
      Cmd.bind (checks i s) fun _ => Cmd.bind (enter i s) fun _ => Cmd.bind (work i s) fun _ => finale i s := by
  cases i <;>
    simp only [body, detectBody, detectChecks, scoreBody, scoreChecks, extractBody, extractBktBody, extractBktChecks,
      gridBucketBody, gridBucketChecks, gridReduceBody, gridIndexBody, gridQueryBody, centroidBody, centroidChecks,
      atan2Body, atan2Checks, describeBody, describeChecks, checkRaster_eq, checkBorder_eq, checkBuckets_eq,
      checkInBase_eq, checkOutCount_eq, checkWordOutput_eq, walkChecks_eq, check_eq, bind_runChecks_bind, bind_runChecks,
      bind_assoc,
      checks, requires, enter, finale, pure_bind, bind_pure_unit, ← Bool.decide_or] <;> rfl

theorem enter_apply (i : Instr) (s : State) : enter i s s.begin = .ok () (entered i s) := by
  cases i <;>
    simp [enter, Cmd.bind, entered, State.begin, declaredReads, declaredWrites, declaredOutput, enteredState, groups]

/-- A command that passes its checks does its work. -/
theorem body_passes {i : Instr} {s : State} (h : Passes i s) : body i s s.begin = worked i s := by
  rw [body_eq, Cmd.bind_ok (checks_ok h), Cmd.bind_ok (enter_apply i s)]
  rfl

/-- A command that fails a check ends there, nothing changed. -/
theorem body_fails {i : Instr} {s : State} (h : ¬ Passes i s) :
    ∃ e info, body i s s.begin = .err e info s.begin ∧ (e = .badParam ∨ e = .noGrid) := by
  obtain ⟨e, info, herr, he⟩ := checks_err h
  exact ⟨e, info, by rw [body_eq, Cmd.bind_err herr], he⟩

end Sys2Proof.Proofs
end

section
/-! What the work of a command keeps: a relation between runs that no single change of the run breaks holds between the
run that the work begins with and the one it leaves. From it: declared footprints are never taken back, and memory stays
canonical. -/

namespace Sys2Proof.Proofs

open Sys2Proof.Machine Sys2Proof.Safety

variable {α β : Type}

/-! ## A whole command, from its three parts -/

/-- Two footprints share no address. -/
def SpansApart (reads writes : List Span) : Prop := ∀ a, Covers writes a → ¬ Covers reads a

/-- Everything a command can do when it ends in a next state: the footprints it has declared share no address, and its
end is recorded. -/
theorem exec_next {i : Instr} {s t : State} (h : exec i s = .next t) :
    SpansApart (body i s s.begin).run.reads (body i s s.begin).run.writes ∧
      ((∃ c, body i s s.begin = .ok () c ∧ t = (refreshed i c.st).finish) ∨
        ∃ e info c, body i s s.begin = .err e info c ∧ t = (refreshed i c.st).raise e info) := by
  rw [exec_eq] at h
  refine ⟨fun a hw hr => ?_, runCommand_next h⟩
  cases (runCommand_overlap hw hr).symm.trans h

/-- A command ends in a next state where the footprints it has declared share no address, and faults otherwise. -/
theorem exec_cases (i : Instr) (s : State) :
    (∃ t, exec i s = .next t) ∨
      exec i s = .fault .footprintOverlap ∧
        ¬ SpansApart (body i s s.begin).run.reads (body i s s.begin).run.writes := by
  by_cases hmeet : SpansApart (body i s s.begin).run.reads (body i s s.begin).run.writes
  · left
    rw [exec_eq]
    cases hb : body i s s.begin with
    | ok _ c => rw [hb] at hmeet; exact ⟨_, runCommand_ok hb hmeet⟩
    | err e info c => rw [hb] at hmeet; exact ⟨_, runCommand_err hb hmeet⟩
  · right
    refine ⟨?_, hmeet⟩
    unfold SpansApart at hmeet
    push Not at hmeet
    obtain ⟨a, hw, hr⟩ := hmeet
    exact (exec_eq i s).trans (runCommand_overlap hw hr)

/-! ## Relations that single changes keep -/

/-- A relation between runs that a change of the state keeps, if it keeps the parameters and the canonical form of
memory. -/
structure Tame (R : Run → Run → Prop) : Prop where
  trans : ∀ a b c, R a b → R b c → R a c
  change : ∀ {c c' : Run}, c'.reads = c.reads → c'.writes = c.writes → c'.st.params = c.st.params →
    (MemoryOk c.st → MemoryOk c'.st) → R c c'

section tame

variable {R : Run → Run → Prop} (hR : Tame R)
include hR

theorem Tame.refl (c : Run) : R c c := hR.change rfl rfl rfl id

theorem keeps_bind {x : Cmd α} {f : α → Cmd β} (hx : Cmd.Keeps R x) (hf : ∀ a, Cmd.Keeps R (f a)) :
    Cmd.Keeps R (Cmd.bind x f) := .bind hR.trans hx hf

theorem keeps_pure (a : α) : Cmd.Keeps R (Cmd.pure a) := .pure hR.refl a

theorem keeps_forRange {f : Nat → Cmd Unit} (hf : ∀ i, Cmd.Keeps R (f i)) (lo n : Nat) :
    Cmd.Keeps R (Cmd.forRange lo n f) := .forRange hR.refl hR.trans hf lo n

theorem keeps_forList {f : α → Cmd Unit} (hf : ∀ a, Cmd.Keeps R (f a)) (as : List α) :
    Cmd.Keeps R (Cmd.forList as f) := .forList hR.refl hR.trans hf as

theorem keeps_modifyBuckets (f : List Bucket → List Bucket) : Cmd.Keeps R (Cmd.modifyBuckets f) :=
  fun _ => hR.change rfl rfl rfl id

theorem keeps_readUnordered (as : List Int) : Cmd.Keeps R (readUnordered as) := by
  intro c
  rcases readUnordered_cases as c with ⟨_, h⟩ | ⟨_, _, _, h⟩ <;> rw [h] <;> exact hR.refl c

theorem keeps_readBytes (n : Nat) (a : Int) : Cmd.Keeps R (readBytes n a) :=
  keeps_bind hR (.admitAccess hR.refl n a) fun _ => .get hR.refl _

theorem keeps_memReadWord (a : Int) : Cmd.Keeps R (memReadWord a) :=
  keeps_bind hR (keeps_readBytes hR 4 a) fun _ => keeps_pure hR _

theorem keeps_memReadByte (a : Int) : Cmd.Keeps R (memReadByte a) :=
  keeps_bind hR (keeps_readBytes hR 1 a) fun _ => keeps_pure hR _

omit hR in
/-- A write that the platform admits lies inside memory, so it keeps the canonical form. -/
theorem memoryOk_write {s : State} {a : Int} {bs : List Byte}
    (ha : ∀ i : Nat, i < bs.length → admitted s.params (a + i) = true) (h : MemoryOk s) :
    MemoryOk { s with mem := Memory.writeBytes s.mem a.toNat bs } := by
  cases bs with
  | nil => exact h
  | cons b bs =>
    refine Memory.wf_writeBytes (b :: bs) h ?_
    have hfirst := admitted_bounds (ha 0 (by simp))
    have hlast := admitted_bounds (ha bs.length (by simp))
    simp only [List.length_cons]
    omega

theorem keeps_memWrite (a : Int) (bs : List Byte) : Cmd.Keeps R (memWrite a bs) := by
  intro c
  rcases memWrite_cases a bs c with ⟨ha, h⟩ | ⟨_, _, h⟩ <;> rw [h]
  · exact hR.change rfl rfl rfl (memoryOk_write ha)
  · exact hR.refl c

theorem keeps_append (bs : List Byte) : Cmd.Keeps R (append bs) := by
  intro c
  rcases append_cases bs c with ⟨_, h⟩ | ⟨_, ha, h⟩ | ⟨_, _, _, h⟩ <;> rw [h]
  · exact hR.refl c
  · exact hR.change rfl rfl rfl (memoryOk_write ha)
  · exact hR.refl c

theorem keeps_appendWord (w : Word) : Cmd.Keeps R (appendWord w) := keeps_append hR _

/-! ## The work of each command -/

theorem keeps_walkRows {r : ParamRegs} {f : Survivor → Cmd Unit} (hf : ∀ v, Cmd.Keeps R (f v)) (lo n : Nat) :
    Cmd.Keeps R (walkRows r f lo n) :=
  keeps_forRange hR (fun _ => keeps_forRange hR (fun _ =>
    keeps_bind hR (keeps_readUnordered hR _) fun _ => keeps_forList hR hf _) _ _) _ _

theorem keeps_fillStripe (r : ParamRegs) (i : Nat) : Cmd.Keeps R (fillStripe r i) :=
  keeps_walkRows hR (fun _ => keeps_modifyBuckets hR _) _ _

theorem keeps_flushStripe (hb : Nat) : Cmd.Keeps R (flushStripe hb) :=
  keeps_bind hR (.getBuckets hR.refl) fun _ =>
    keeps_bind hR (keeps_forList hR (fun b => keeps_forList hR (keeps_appendWord hR) b) _) fun _ =>
      keeps_modifyBuckets hR _

theorem keeps_boundedKeypoint (r : ParamRegs) (k : Nat) : Cmd.Keeps R (boundedKeypoint r k) :=
  keeps_bind hR (keeps_memReadWord hR _) fun _ => .ite _ (keeps_pure hR _) (.raise hR.refl _ _)

theorem keeps_queryEntries (x y r : Int) (start : Word) (e : Nat) (b : Bucket) :
    Cmd.Keeps R (queryEntries x y r start e b) := by
  induction b generalizing e with
  | nil => exact keeps_pure hR _
  | cons kp b ih => exact keeps_bind hR (.ite _ (keeps_appendWord hR _) (keeps_pure hR _)) fun _ => ih (e + 1)

theorem keeps_describeKeypoint (p : Params) (r : ParamRegs) (k : Nat) : Cmd.Keeps R (describeKeypoint p r k) :=
  keeps_bind hR (keeps_boundedKeypoint hR r k) fun _ => .ite _ (.raise hR.refl _ _) <|
    keeps_bind hR (.mapRange hR.refl hR.trans (fun _ => keeps_bind hR
      (.mapRange hR.refl hR.trans (fun _ => keeps_bind hR (keeps_readUnordered hR _) fun _ => keeps_pure hR _) _ _)
      fun _ => keeps_pure hR _) _ _) fun _ => keeps_forList hR (keeps_appendWord hR) _

/-- The lane of a keypoint declares the disk of the keypoint. -/
theorem keeps_centroidLane (hd : ∀ reads writes, Cmd.Keeps R (declareFootprint reads writes)) (p : Params)
    (r : ParamRegs) (k : Nat) : Cmd.Keeps R (centroidLane p r k) :=
  .ite _ (keeps_bind hR (keeps_boundedKeypoint hR r k) fun _ => keeps_bind hR (hd _ _) fun _ =>
    keeps_bind hR (keeps_readUnordered hR _) fun _ => keeps_pure hR _) (keeps_pure hR _)

theorem keeps_appendGroup (lanes : List (Word × Word)) :
    Cmd.Keeps R (Cmd.bind (Cmd.forList (lanes.map Prod.fst) appendWord) fun _ =>
      Cmd.forList (lanes.map Prod.snd) appendWord) :=
  keeps_bind hR (keeps_forList hR (keeps_appendWord hR) _) fun _ => keeps_forList hR (keeps_appendWord hR) _

theorem keeps_centroidGroup (hd : ∀ reads writes, Cmd.Keeps R (declareFootprint reads writes)) (p : Params)
    (r : ParamRegs) (g : Nat) : Cmd.Keeps R (centroidGroup p r g) :=
  keeps_bind hR (.mapRange hR.refl hR.trans (keeps_centroidLane hR hd p r) _ _) fun lanes => keeps_appendGroup hR lanes

/-- The commands whose work declares nothing: all but CENTROID. -/
theorem keeps_work {i : Instr} (hi : i ≠ .centroid) (s : State) : Cmd.Keeps R (work i s) := by
  cases i with
  | centroid => exact absurd rfl hi
  | detect =>
    exact keeps_forRange hR (fun _ => keeps_bind hR
      (keeps_forRange hR (fun _ => keeps_bind hR (keeps_readUnordered hR _) fun _ => keeps_memWrite hR _ _) _ _)
      fun _ => .ite _ (keeps_pure hR _) (keeps_bind hR (keeps_memWrite hR _ _) fun _ => keeps_memWrite hR _ _)) _ _
  | score =>
    exact keeps_forRange hR (fun _ => keeps_forRange hR (fun _ => keeps_bind hR (keeps_memReadByte hR _) fun _ =>
      .ite _ (keeps_pure hR _) (keeps_bind hR (keeps_readUnordered hR _) fun _ => keeps_memWrite hR _ _)) _ _) _ _
  | extract => exact keeps_walkRows hR (fun _ => keeps_appendWord hR _) _ _
  | extractBkt =>
    dsimp only [work]
    exact keeps_bind hR (keeps_modifyBuckets hR _) fun _ => keeps_forRange hR (fun _ =>
      keeps_bind hR (keeps_fillStripe hR _ _) fun _ => keeps_flushStripe hR _) _ _
  | gridBucket =>
    dsimp only [work]
    exact keeps_bind hR (keeps_modifyBuckets hR _) fun _ => keeps_walkRows hR (fun _ => keeps_modifyBuckets hR _) _ _
  | gridReduce => exact keeps_pure hR _
  | gridIndex =>
    exact keeps_forRange hR (fun _ => keeps_forRange hR (fun _ =>
      keeps_bind hR ((fun _ => hR.change rfl rfl rfl id)) fun _ =>
        keeps_forList hR (keeps_appendWord hR) _) _ _) _ _
  | gridQuery =>
    exact .ite _ (keeps_pure hR _)
      (keeps_forRange hR (fun _ => keeps_forRange hR (fun _ => keeps_queryEntries hR _ _ _ _ _ _) _ _) _ _)
  | atan2 =>
    exact keeps_forRange hR (fun _ => keeps_bind hR (keeps_memReadWord hR _) fun _ =>
      keeps_bind hR (keeps_memReadWord hR _) fun _ => keeps_append hR _) _ _
  | describe => exact keeps_forRange hR (keeps_describeKeypoint hR _ _) _ _

theorem keeps_finale (i : Instr) (s : State) : Cmd.Keeps R (finale i s) := by
  cases i with
  | gridBucket =>
    dsimp only [finale]
    exact keeps_bind hR (.getBuckets hR.refl) fun _ _ => hR.change rfl rfl rfl id
  | gridReduce | gridIndex => exact fun _ => hR.change rfl rfl rfl id
  | detect | score | extract | extractBkt | gridQuery | centroid | atan2 | describe => exact keeps_pure hR _

end tame

/-! ## Footprints only grow, and memory stays canonical -/

/-- What holds between the run that a part begins with and the one it leaves, however it ends. -/
structure Extends (c c' : Run) : Prop where
  reads : ∀ a, Covers c.reads a → Covers c'.reads a
  writes : ∀ a, Covers c.writes a → Covers c'.writes a
  params : c'.st.params = c.st.params
  memory : MemoryOk c.st → MemoryOk c'.st

theorem tame_extends : Tame Extends where
  trans _ _ _ h h' :=
    ⟨fun a ha => h'.reads a (h.reads a ha), fun a ha => h'.writes a (h.writes a ha), h'.params.trans h.params,
      fun hm => h'.memory (h.memory hm)⟩
  change hr hw hp hm := ⟨fun _ ha => hr ▸ ha, fun _ ha => hw ▸ ha, hp, hm⟩

theorem declare_extends (reads writes : List Span) : Cmd.Keeps Extends (declareFootprint reads writes) :=
  fun _ => ⟨fun _ ha => covers_append.mpr (.inr ha), fun _ ha => covers_append.mpr (.inr ha), rfl, id⟩

theorem work_extends (i : Instr) (s : State) : Cmd.Keeps Extends (work i s) := by
  by_cases hi : i = .centroid
  · subst hi
    exact keeps_forRange tame_extends (keeps_centroidGroup tame_extends declare_extends _ _) _ _
  · exact keeps_work tame_extends hi s

theorem worked_extends (i : Instr) (s : State) : Extends (entered i s) (worked i s).run :=
  keeps_bind tame_extends (work_extends i s) (fun _ => keeps_finale tame_extends i s) (entered i s)

theorem memoryOk_entered {i : Instr} {s : State} (h : MemoryOk s) : MemoryOk (entered i s).st := by
  cases i <;> exact h

theorem memoryOk_body {i : Instr} {s : State} (h : MemoryOk s) : MemoryOk (body i s s.begin).run.st := by
  by_cases hpass : Passes i s
  · rw [body_passes hpass]
    exact (worked_extends i s).memory (memoryOk_entered h)
  · obtain ⟨e, info, herr, _⟩ := body_fails hpass
    rw [herr]
    exact h

theorem mem_refreshed (i : Instr) (u : State) : (refreshed i u).mem = u.mem := by
  unfold refreshed
  split <;> rfl

theorem memoryOk_of_exec {i : Instr} {s t : State} (h : exec i s = .next t) (hs : MemoryOk s) : MemoryOk t := by
  have hbody := memoryOk_body (i := i) hs
  unfold MemoryOk at *
  rcases (exec_next h).2 with ⟨c, hc, rfl⟩ | ⟨e, info, c, hc, rfl⟩ <;> rw [hc] at hbody
  · rwa [State.finish_mem, mem_refreshed]
  · rwa [State.raise_mem, mem_refreshed]

/-! ## Every step keeps memory canonical -/

theorem memoryOk_of_runWord {v : Word} {s t : State} (h : runWord v s = .next t) (hs : MemoryOk s) : MemoryOk t := by
  unfold runWord at h
  split at h
  · exact memoryOk_of_exec h hs
  · cases h; exact hs

theorem memoryOk_of_requestCommand {v : Word} {s t : State} (h : requestCommand v s = .next t) (hs : MemoryOk s) :
    MemoryOk t := by
  unfold requestCommand at h
  split at h
  · exact memoryOk_of_runWord h hs
  · cases h; exact hs

theorem memoryOk_of_hostRegWrite {width : AccessWidth} {offset : BitVec 8} {v : Word} {s t : State}
    (h : hostRegWrite width offset v s = .next t) (hs : MemoryOk s) : MemoryOk t := by
  unfold hostRegWrite at h
  split at h
  · cases h; exact hs
  split at h
  · split at h
    · cases h; exact hs
    split at h
    · cases h; exact hs
    next r _ =>
      cases r with
      | cmd => exact memoryOk_of_requestCommand h hs
      | status | errInfo | result | gridDim | gridTotal | cfgMaxK | cfgMaxBuckets => cases h; exact hs
      | param p => cases h; exact hs
  · cases h; exact hs

theorem memoryOk_of_hostRegRead {width : AccessWidth} {offset : BitVec 8} {s t : State}
    (h : hostRegRead width offset s = .next t) (hs : MemoryOk s) : MemoryOk t := by
  unfold hostRegRead at h
  split at h
  · cases h; exact hs
  split at h
  · cases h; exact hs
  split at h
  · cases h
  · cases h; exact hs

/-- A torn command leaves each byte at its old value or its new one, both of canonical memories (70_reset_and_hazards
R301). -/
theorem memoryOk_of_resetDuring {v : Word} {s t : State} (h : resetDuring v s = .next t) (hs : MemoryOk s) :
    MemoryOk t := by
  unfold resetDuring at h
  split at h
  · cases h; exact hs
  split at h
  · split at h
    next u hrun =>
      cases h
      exact wf_abortedMemory _ hs (memoryOk_of_runWord hrun hs)
    · cases h
    · cases h
  · cases h; exact hs

theorem memoryOk_of_hostMemory {next : State → Host.Outcome State Fault Refusal} {s t : State}
    (hnext : next s = .next t → MemoryOk t) (h : hostMemory next s = .next t) : MemoryOk t := by
  unfold hostMemory at h
  split at h
  · cases h
  · exact hnext h

theorem memoryOk_of_hostWord {a : Word} {next : State → State} {s t : State}
    (hnext : a.toNat + 4 ≤ 4294967296 → MemoryOk (next s)) (h : hostWord a next s = .next t) : MemoryOk t := by
  unfold hostWord at h
  split at h
  next ha => cases h; exact hnext ha
  · cases h

theorem memoryOk_of_hostEvent {e : HostEvent} {s t : State} (h : hostEvent e s = .next t) (hs : MemoryOk s) :
    MemoryOk t := by
  cases e with
  | regWrite width offset v => exact memoryOk_of_hostRegWrite h hs
  | regRead width offset => exact memoryOk_of_hostRegRead h hs
  | memWriteByte a v =>
    refine memoryOk_of_hostMemory (next := fun s => .next (s.store a.toNat [v])) (fun hnext => ?_) h
    cases hnext
    exact Memory.wf_writeBytes [v] hs a.isLt
  | memWriteWord a v =>
    refine memoryOk_of_hostMemory (memoryOk_of_hostWord fun ha => ?_) h
    exact Memory.wf_writeBytes (wordBytes v) hs ha
  | memReadByte a =>
    refine memoryOk_of_hostMemory (next := fun s => .next (s.returnRead ((Memory.read s.mem a.toNat).setWidth 32)))
      (fun hnext => ?_) h
    cases hnext
    exact hs
  | memReadWord a => exact memoryOk_of_hostMemory (memoryOk_of_hostWord fun _ => hs) h
  | resetAssert => cases h; exact hs
  | resetRelease =>
    cases h
    unfold State.releaseReset
    split <;> exact hs
  | resetDuringCommand v => exact memoryOk_of_resetDuring h hs

/-- Settles O14: a command's writes are admitted and so lie inside memory, as a host's do; a torn command mixes two
canonical memories; every other act leaves memory alone. -/
theorem stepKeepsMemoryCanonical : Obligations.StepKeepsMemoryCanonical := by
  intro s t hs h
  cases hin : s.inputs with
  | nil =>
    cases (step_idle hin).symm.trans h
    exact hs
  | cons e rest => exact memoryOk_of_hostEvent ((step_act hin).symm.trans h) hs

/-! ## Which commands can fault -/

theorem tame_sameFootprint : Tame fun c c' => c'.reads = c.reads ∧ c'.writes = c.writes where
  trans _ _ _ h h' := ⟨h'.1.trans h.1, h'.2.trans h.2⟩
  change hr hw _ _ := ⟨hr, hw⟩

/-- The four grid commands declare no footprint (43_feature_grid R193, R197, R202, R206). -/
theorem grid_declares_nothing {i : Instr} (hi : isGridCommand i = true) (s : State) :
    (body i s s.begin).run.writes = [] := by
  by_cases hpass : Passes i s
  · have hne : i ≠ .centroid := by rintro rfl; cases hi
    have hkeeps := keeps_bind tame_sameFootprint (keeps_work tame_sameFootprint hne s)
      (fun _ => keeps_finale tame_sameFootprint i s) (entered i s)
    rw [body_passes hpass]
    refine hkeeps.2.trans ?_
    cases i with
    | gridBucket | gridReduce | gridIndex | gridQuery => rfl
    | detect | score | extract | extractBkt | centroid | atan2 | describe => cases hi
  · obtain ⟨e, info, herr, _⟩ := body_fails hpass
    rw [herr]
    rfl

/-- Settles O19: a command that does not end has declared footprints that meet, and a grid command declares none. -/
theorem commandsEndOrFaultOnOverlap : Obligations.CommandsEndOrFaultOnOverlap := by
  refine ⟨fun i s => (exec_cases i s).imp_right And.left,
    fun i s hi => (exec_cases i s).resolve_right fun ⟨_, hmeet⟩ => ?_⟩
  refine hmeet fun a hw => ?_
  rw [grid_declares_nothing hi s] at hw
  exact absurd hw (covers_nil a)

end Sys2Proof.Proofs
end

section
/-! Host memory accesses (20_memory R60, R62, 30_encoding R95). -/

namespace Sys2Proof.Proofs

open Sys2Proof.Machine Sys2Proof.Safety

/-- A step whose act is a memory access, in a block that is not busy. -/
theorem step_hostMemory {s : State} {e : HostEvent} {rest : List HostEvent}
    {next : State → Host.Outcome State Fault Refusal} (hb : s.status.busy = false) (hact : s.inputs = e :: rest)
    (he : ∀ u, hostEvent e u = hostMemory next u) : step s = next { s with inputs := rest } := by
  rw [step_act hact, he, hostMemory, hb]
  rfl

theorem step_memWriteWord {s : State} {a v : Word} {rest : List HostEvent} (hb : s.status.busy = false)
    (ha : a.toNat + 4 ≤ 4294967296) (hact : s.inputs = .memWriteWord a v :: rest) :
    step s = .next (State.store { s with inputs := rest } a.toNat (wordBytes v)) :=
  (step_hostMemory hb hact fun _ => rfl).trans (if_pos ha)

theorem step_memReadWord {s : State} {a : Word} {rest : List HostEvent} (hb : s.status.busy = false)
    (ha : a.toNat + 4 ≤ 4294967296) (hact : s.inputs = .memReadWord a :: rest) :
    step s = .next { s with inputs := rest, readData := wordAt s.mem a.toNat } :=
  (step_hostMemory hb hact fun _ => rfl).trans (if_pos ha)

theorem step_memWriteByte {s : State} {a : Word} {v : Byte} {rest : List HostEvent} (hb : s.status.busy = false)
    (hact : s.inputs = .memWriteByte a v :: rest) :
    step s = .next (State.store { s with inputs := rest } a.toNat [v]) :=
  step_hostMemory hb hact fun _ => rfl

theorem step_memReadByte {s : State} {a : Word} {rest : List HostEvent} (hb : s.status.busy = false)
    (hact : s.inputs = .memReadByte a :: rest) :
    step s = .next { s with inputs := rest, readData := (byteAt s.mem a.toNat).setWidth 32 } :=
  step_hostMemory hb hact fun _ => rfl

/-- Byte k of a word's bytes is the k-th eight bits of the word (20_memory R62). -/
theorem getElem_wordBytes (v : Word) {k : Nat} (hk : k < 4) : (wordBytes v)[k] = v.extractLsb' (8 * k) 8 := by
  match k, hk with
  | 0, _ | 1, _ | 2, _ | 3, _ => rfl

/-- The word at an address that was just written. -/
theorem wordAt_writeBytes (m : Memory) (a : Nat) (v : Word) : wordAt (Memory.writeBytes m a (wordBytes v)) a = v := by
  have h := Memory.readBytes_writeBytes m a (wordBytes v)
  rw [wordBytes_length] at h
  rw [wordAt, h, wordOfBytes_wordBytes]

/-- Settles O10: each access is one step, and memory reads back what is written. -/
theorem hostMemoryWordsAreLittleEndian : Obligations.HostMemoryWordsAreLittleEndian := by
  refine ⟨fun s a v rest hb ha hact => ?_, fun s a v rest hb hact => ?_, fun s a rest hb => ?_⟩
  · refine ⟨_, step_memWriteWord hb ha hact, rfl, fun k hk => ?_, fun b hout => ?_, ?_⟩
    · rw [← getElem_wordBytes v hk]
      exact Memory.read_writeBytes_inside s.mem a.toNat (wordBytes v) k hk
    · exact Memory.read_writeBytes_outside s.mem a.toNat b (wordBytes v) hout
    · refine Eq.trans (step_memReadWord hb ha rfl) ?_
      rw [State.store_mem, wordAt_writeBytes]
  · refine ⟨_, step_memWriteByte hb hact, rfl, Memory.read_write_same s.mem a.toNat v, fun b hne => ?_, ?_⟩
    · exact Memory.read_write_other s.mem v hne
    · refine Eq.trans (step_memReadByte hb rfl) ?_
      rw [byteAt, Int.toNat_natCast, State.store_mem, Memory.writeBytes_cons, Memory.writeBytes_nil,
        Memory.read_write_same]
  · exact ⟨step_memReadByte hb, fun ha => step_memReadWord hb ha⟩

end Sys2Proof.Proofs
end

section
/-! The footprints that a command declares are those that its rule states (20_memory R67): the addresses that the
declared spans cover. -/

namespace Sys2Proof.Proofs

open Sys2Proof.Machine Sys2Proof.Safety

/-! ## Spans and lists of addresses -/

theorem covers_cons {u : Span} {us : List Span} {a : Nat} : Covers (u :: us) a ↔ Span.Has u a ∨ Covers us a := by
  simp [Covers]

theorem covers_singleton {u : Span} {a : Nat} : Covers [u] a ↔ u.1 ≤ a ∧ a < u.1 + u.2 := by
  simp [Covers, Span.Has]

theorem covers_flatMap {α : Type} {l : List α} {f : α → List Span} {a : Nat} :
    Covers (l.flatMap f) a ↔ ∃ x ∈ l, Covers (f x) a := by
  simp only [Covers, List.mem_flatMap]
  exact ⟨fun ⟨u, ⟨x, hx, hu⟩, ha⟩ => ⟨x, hx, u, hu, ha⟩, fun ⟨x, hx, u, hu, ha⟩ => ⟨u, ⟨x, hx, hu⟩, ha⟩⟩

theorem covers_map {α : Type} {l : List α} {f : α → Span} {a : Nat} :
    Covers (l.map f) a ↔ ∃ x ∈ l, Span.Has (f x) a := by
  simp [Covers]

theorem mem_bytesFrom {b n a : Nat} : (a : Int) ∈ bytesFrom b n ↔ b ≤ a ∧ a < b + n := by
  simp only [bytesFrom, List.mem_map, List.mem_range'_1]
  exact ⟨fun ⟨k, hk, he⟩ => by have : k = a := Int.ofNat.inj he; omega, fun h => ⟨a, h, rfl⟩⟩

theorem nat_of_mem_bytesFrom {b n : Nat} {a : Int} (h : a ∈ bytesFrom b n) :
    ∃ k : Nat, a = k ∧ b ≤ k ∧ k < b + n := by
  obtain ⟨k, hk, rfl⟩ := List.mem_map.mp h
  exact ⟨k, rfl, List.mem_range'_1.mp hk⟩

theorem mem_outAddrs {r : ParamRegs} {e n a : Nat} : (a : Int) ∈ outAddrs r e n ↔ Covers [outSpan r e n] a := by
  rw [outAddrs, mem_bytesFrom, covers_outSpan, outStart]

theorem mem_inputAddrs {r : ParamRegs} {ks : List Nat} {a : Nat} :
    (a : Int) ∈ inputAddrs r ks ↔ ∃ k ∈ ks, r.inBase.toNat + 4 * k ≤ a ∧ a < r.inBase.toNat + 4 * k + 4 := by
  simp only [inputAddrs, List.mem_flatMap, mem_bytesFrom]

/-! ## Rasters -/

theorem markAddr_natCast (r : ParamRegs) (x y : Nat) :
    markAddr r x y = ((r.marksBase.toNat + y * r.stride.toNat + x : Nat) : Int) := by
  simp [markAddr, cellAddr]

theorem mem_regionCells {r : ParamRegs} {c : Nat × Nat} :
    c ∈ regionCells r ↔
      (r.border.toNat ≤ c.1 ∧ c.1 < r.border.toNat + innerExtent r.width r.border) ∧
        r.border.toNat ≤ c.2 ∧ c.2 < r.border.toNat + innerExtent r.height r.border := by
  obtain ⟨x, y⟩ := c
  simp only [regionCells, List.mem_flatMap, List.mem_map, List.mem_range'_1, Prod.mk.injEq]
  exact ⟨fun ⟨_, hy, _, hx, hxx, hyy⟩ => hxx ▸ hyy ▸ ⟨hx, hy⟩, fun ⟨hx, hy⟩ => ⟨y, hy, x, hx, rfl, rfl⟩⟩

theorem mem_detectRect {r : ParamRegs} {a : Nat} : (a : Int) ∈ detectRect r ↔ Covers (detectReadSpans r) a := by
  simp only [detectRect, List.mem_flatMap, mem_bytesFrom]
  rfl

theorem covers_detectWriteSpans_of_mark {r : ParamRegs} {a : Int} (h : a ∈ regionMarks r) :
    ∃ n : Nat, a = n ∧ Covers (detectWriteSpans r) n := by
  obtain ⟨⟨x, y⟩, hc, rfl⟩ := List.mem_map.mp h
  obtain ⟨⟨hx, hx'⟩, hy⟩ := mem_regionCells.mp hc
  refine ⟨_, markAddr_natCast r x y, covers_flatMap.mpr ⟨y, List.mem_range'_1.mpr hy, covers_cons.mpr (.inl ?_)⟩⟩
  simp only [Span.Has, markAddr_natCast, Int.toNat_natCast]
  dsimp only at hx hx'
  omega

theorem covers_detectWriteSpans_of_edge {r : ParamRegs} {a : Int} (h : a ∈ edgeAddrs r) :
    ∃ n : Nat, a = n ∧ Covers (detectWriteSpans r) n := by
  unfold edgeAddrs at h
  split at h
  · cases h
  next hw =>
    obtain ⟨y, hy, ha⟩ := List.mem_flatMap.mp h
    obtain ⟨d, hd, rfl⟩ : ∃ d : Nat, d < 2 ∧ a = markAddr r ((r.width.toNat + d : Nat) : Int) y := by
      rcases List.mem_cons.mp ha with rfl | ha
      · exact ⟨0, by omega, rfl⟩
      · exact ⟨1, by omega, List.mem_singleton.mp ha⟩
    refine ⟨_, markAddr_natCast r _ y, covers_flatMap.mpr ⟨y, hy, covers_cons.mpr (.inr ?_)⟩⟩
    rw [if_neg hw, covers_singleton, markAddr_natCast, Int.toNat_natCast]
    dsimp only
    omega

/-- Where the platform answers at every mark of the region, the marks that SCORE counts are those that are not 0. -/
theorem nonzeroMarks_eq {s : State} (h : AllAdmitted s.params (regionMarks s.regs)) :
    nonzeroMarks s.params s.regs s.mem = markedCells s := by
  refine List.filter_congr fun c hc => ?_
  rw [h _ (List.mem_map_of_mem hc)]
  rfl

theorem scoreReadSpans_eq {s : State} (h : AllAdmitted s.params (regionMarks s.regs)) {a : Nat} :
    Covers (scoreReadSpans s.params s.regs s.mem) a ↔ (a : Int) ∈ scoreReads s := by
  simp only [scoreReadSpans, nonzeroMarks_eq h, covers_flatMap, covers_byteSpans, scoreReads, List.mem_flatMap]

theorem scoreWriteSpans_eq {s : State} (h : AllAdmitted s.params (regionMarks s.regs)) {a : Nat} :
    Covers (scoreWriteSpans s.params s.regs s.mem) a ↔ (a : Int) ∈ scoreWrites s := by
  rw [scoreWriteSpans, nonzeroMarks_eq h, covers_byteSpans, scoreWrites]

/-! ## The suppression walk -/

theorem mem_blockOrigins {r : ParamRegs} {c : Nat × Nat} :
    c ∈ blockOrigins r ↔ ∃ ky kx, ky < blockCount r.height r.border ∧ kx < blockCount r.width r.border ∧
      c = (r.border.toNat + 2 * kx, r.border.toNat + 2 * ky) := by
  simp only [blockOrigins, List.mem_flatMap, List.mem_map, List.mem_range'_1, Nat.zero_le, true_and, Nat.zero_add]
  exact ⟨fun ⟨ky, hy, kx, hx, he⟩ => ⟨ky, kx, hy, hx, he.symm⟩, fun ⟨ky, kx, hy, hx, he⟩ => ⟨ky, hy, kx, hx, he.symm⟩⟩

theorem mem_windowAddrs {r : ParamRegs} {x y : Nat} {a : Int} :
    a ∈ windowAddrs r x y ↔ ∃ j i : Nat, j < 4 ∧ i < 4 ∧ a = markAddr r ((x : Int) - 1 + i) ((y : Int) - 1 + j) := by
  simp only [windowAddrs, List.mem_flatMap, List.mem_map, List.mem_range'_1, Nat.zero_le, true_and, Nat.zero_add]
  exact ⟨fun ⟨j, hj, i, hi, he⟩ => ⟨j, i, hj, hi, he.symm⟩, fun ⟨j, i, hj, hi, he⟩ => ⟨j, hj, i, hi, he.symm⟩⟩

/-- A window that begins right of and below (0, 0) has its marks at natural addresses. -/
theorem markAddr_window {r : ParamRegs} {x y i j : Nat} (hx : 1 ≤ x) (hy : 1 ≤ y) :
    markAddr r ((x : Int) - 1 + i) ((y : Int) - 1 + j) =
      ((r.marksBase.toNat + (y - 1 + j) * r.stride.toNat + (x - 1 + i) : Nat) : Int) := by
  rw [← markAddr_natCast]
  congr 1 <;> omega

/-- The four bytes of each row of a window are the marks of the window. -/
theorem covers_windowRows {r : ParamRegs} {x y a : Nat} (hx : 1 ≤ x) (hy : 1 ≤ y) :
    Covers ((List.range' 0 4).map fun (j : Nat) => ((markAddr r ((x : Int) - 1) ((y : Int) - 1 + j)).toNat, 4)) a ↔
      (a : Int) ∈ windowAddrs r x y := by
  simp only [covers_map, mem_windowAddrs, markAddr_window hx hy, List.mem_range'_1, Nat.zero_le, true_and,
    Nat.zero_add, Span.Has]
  have hrow (j : Nat) : markAddr r ((x : Int) - 1) ((y : Int) - 1 + j) =
      ((r.marksBase.toNat + (y - 1 + j) * r.stride.toNat + (x - 1 + 0) : Nat) : Int) := by
    simpa using markAddr_window (r := r) (i := 0) (j := j) hx hy
  simp only [hrow, Int.toNat_natCast]
  constructor
  · rintro ⟨j, hj, hlo, hhi⟩
    exact ⟨j, a - (r.marksBase.toNat + (y - 1 + j) * r.stride.toNat + (x - 1 + 0)), hj, by omega, by omega⟩
  · rintro ⟨j, i, hj, hi, he⟩
    exact ⟨j, hj, by omega, by omega⟩

theorem covers_walkReadSpans {r : ParamRegs} (hb : 1 ≤ r.border.toNat) {a : Nat} :
    Covers (walkReadSpans r) a ↔ (a : Int) ∈ walkReads r := by
  simp only [walkReadSpans, walkReads, covers_flatMap, List.mem_flatMap]
  refine exists_congr fun c => and_congr_right fun hc => ?_
  obtain ⟨ky, kx, _, _, rfl⟩ := mem_blockOrigins.mp hc
  exact covers_windowRows (by dsimp only; omega) (by dsimp only; omega)

theorem firstFailed_eq_none {l : List Check} : firstFailed l = none ↔ ∀ k ∈ l, k.1 = false := by
  induction l with
  | nil => simp [firstFailed]
  | cons k l ih =>
    obtain ⟨bad, info⟩ := k
    cases bad <;> simp [firstFailed, ih]

/-- The commands that walk the marks check that BORDER is at least 2 (42_nms_extract R167, R172, 43_feature_grid
R194). -/
def walks : Instr → Bool
  | .extract | .extractBkt | .gridBucket => true
  | .detect | .score | .gridReduce | .gridIndex | .gridQuery | .centroid | .atan2 | .describe => false

theorem border_of_legal {i : Instr} {s : State} (hi : walks i = true) (h : Legal i s) : 2 ≤ s.regs.border.toNat := by
  have hmem : borderCheck s.regs 2 ∈ paramChecks s.params s.regs i := by
    cases i with
    | extract | extractBkt | gridBucket => simp [paramChecks]
    | detect | score | gridReduce | gridIndex | gridQuery | centroid | atan2 | describe => cases hi
  exact Nat.not_lt.mp (of_decide_eq_false (firstFailed_eq_none.mp h _ hmem))

/-- Where the platform answers at every mark of the walk, the survivors are all that memory holds. -/
theorem survivorsIn_eq {s : State} (h : AllAdmitted s.params (walkReads s.regs)) :
    survivorsIn s.params s.regs s.mem = survivors s := by
  refine List.flatMap_congr fun c hc => if_pos (List.all_eq_true.mpr fun a ha => h a ?_)
  exact List.mem_flatMap.mpr ⟨c, hc, ha⟩

theorem length_flatten (bs : List Bucket) : (flatten bs).length = entryCount bs := by
  induction bs with
  | nil => rfl
  | cons b bs ih =>
    rw [flatten, List.flatMap_cons, List.length_append, entryCount, ← ih]
    rfl

/-! ## Arrays -/

theorem covers_inputSpan {r : ParamRegs} {n a : Nat} :
    Covers [(r.inBase.toNat, 4 * n)] a ↔ (a : Int) ∈ inputAddrs r (List.range n) := by
  simp only [covers_singleton, mem_inputAddrs, List.mem_range]
  exact ⟨fun _ => ⟨(a - r.inBase.toNat) / 4, by omega, by omega, by omega⟩, fun ⟨k, hk, hlo, hhi⟩ => by omega⟩

theorem mem_atan2Inputs {r : ParamRegs} {e : Nat} :
    e ∈ atan2Inputs r ↔ ∃ k, k < r.inCount.toNat ∧ (e = momentIndex k ∨ e = momentIndex k + 4) := by
  simp only [atan2Inputs, List.mem_flatMap, List.mem_range, List.mem_cons, List.not_mem_nil, or_false, momentIndex]
  refine exists_congr fun k => and_congr_right fun _ => or_congr_right ?_
  rw [Nat.add_right_comm]

/-- The whole groups and the two runs of a last group are the words of the pairs (45_orb_atan2 R239). -/
theorem covers_atan2ReadSpans {r : ParamRegs} {a : Nat} :
    Covers (atan2ReadSpans r) a ↔ (a : Int) ∈ inputAddrs r (atan2Inputs r) := by
  simp only [atan2ReadSpans, covers_cons, covers_nil, Span.Has, or_false, mem_inputAddrs, mem_atan2Inputs, momentIndex]
  constructor
  · intro h
    obtain ⟨w, hlo, hhi⟩ : ∃ w, r.inBase.toNat + 4 * w ≤ a ∧ a < r.inBase.toNat + 4 * w + 4 :=
      ⟨(a - r.inBase.toNat) / 4, by omega, by omega⟩
    exact ⟨w, ⟨4 * (w / 8) + w % 4, by omega, by omega⟩, hlo, hhi⟩
  · rintro ⟨e, ⟨k, hk, he⟩, hlo, hhi⟩
    omega

/-- The word of keypoint k, as the footprint of DESCRIBE reads it. -/
theorem inputWord_eq (s : State) (k : Nat) :
    wordOfBytes (Memory.readBytes s.mem (inAddr s.regs k).toNat 4) = inputWord s k := by
  rw [inAddr, Int.toNat_natCast]
  rfl

theorem testAddrs_eq (s : State) (k j : Nat) :
    testAddrs s.params s.regs (kpOrient (inputWord s k)).toNat (kpX (inputWord s k)).toNat
      (kpY (inputWord s k)).toNat j = [(probeAddrs s k j).1, (probeAddrs s k j).2] := rfl

/-- The pixels of keypoint k's tests. -/
def probesOf (s : State) (k : Nat) : List Int :=
  (List.range (32 * s.regs.descN.toNat)).flatMap fun j => [(probeAddrs s k j).1, (probeAddrs s k j).2]

theorem covers_keypointSpans {s : State} {k a : Nat} :
    Covers (keypointSpans s.params s.regs s.mem k) a ↔
      (firstRefused s.params (inAddr s.regs k) 4 = none ∧ (kpOrient (inputWord s k)).toNat < 30) ∧
        (a : Int) ∈ probesOf s k := by
  simp only [keypointSpans, inputWord_eq, testAddrs_eq]
  split
  case isTrue h =>
    simp only [h, covers_flatMap, covers_byteSpans, probesOf, List.mem_flatMap, List.range_eq_range', true_and,
      and_self]
  case isFalse h => simp [h]

theorem covers_describeReadSpans {s : State} {a : Nat} :
    Covers (describeReadSpans s.params s.regs s.mem) a ↔
      (a : Int) ∈ inputAddrs s.regs (List.range s.regs.inCount.toNat) ∨
        ∃ k, k < s.regs.inCount.toNat ∧
          (firstRefused s.params (inAddr s.regs k) 4 = none ∧ (kpOrient (inputWord s k)).toNat < 30) ∧
            (a : Int) ∈ probesOf s k := by
  rw [← covers_inputSpan, covers_singleton]
  simp only [describeReadSpans, covers_cons, covers_flatMap, covers_keypointSpans, List.mem_range'_1, Nat.zero_le,
    true_and, Nat.zero_add, Span.Has]

/-- The platform answers at a word of the input exactly where it answers at its four bytes. -/
theorem firstRefused_input {p : Params} {r : ParamRegs} {k : Nat} :
    firstRefused p (inAddr r k) 4 = none ↔ AllAdmitted p (inputAddrs r [k]) := by
  rw [firstRefused_eq_none]
  simp only [inputAddrs, List.flatMap_cons, List.flatMap_nil, List.append_nil]
  constructor
  · intro h a ha
    obtain ⟨n, rfl, hlo, hhi⟩ := nat_of_mem_bytesFrom ha
    have := h (n - (r.inBase.toNat + 4 * k)) (by omega)
    rwa [inAddr, ← Nat.cast_add, Nat.add_sub_cancel' hlo] at this
  · intro h i hi
    rw [inAddr, ← Nat.cast_add]
    exact h _ (mem_bytesFrom.mpr ⟨by omega, by omega⟩)

theorem allAdmitted_input {p : Params} {r : ParamRegs} {ks : List Nat} (h : AllAdmitted p (inputAddrs r ks)) {k : Nat}
    (hk : k ∈ ks) : AllAdmitted p (inputAddrs r [k]) := by
  intro a ha
  simp only [inputAddrs, List.flatMap_cons, List.flatMap_nil, List.append_nil] at ha
  exact h a (List.mem_flatMap.mpr ⟨k, hk, ha⟩)

/-! ## What is stated is declared -/

/-- The bytes of the elements a command would append are those of the declared span (42_nms_extract R166, R173,
44_orb_centroid R224, 45_orb_atan2 R239, 46_orb_describe R256). -/
theorem wholeOutput_eq {i : Instr} {s : State} (hi : isGridCommand i = false)
    (h : AllAdmitted s.params (decidingReads s i)) : wholeOutput s i = declaredOutput s i := by
  cases i with
  | extract => simp only [wholeOutput, declaredOutput, survivorsIn_eq h]
  | extractBkt => simp only [wholeOutput, declaredOutput, survivorsIn_eq h, length_flatten]
  | detect | score | centroid | atan2 | describe => rfl
  | gridBucket | gridReduce | gridIndex | gridQuery => cases hi

theorem covers_declaredWrites {i : Instr} {s : State} {a : Int} (hi : isGridCommand i = false)
    (h : AllAdmitted s.params (decidingReads s i)) (ha : a ∈ statedWrites s i) :
    ∃ n : Nat, a = n ∧ Covers (declaredWrites s i) n := by
  have hout (e : Nat) (ha : a ∈ outAddrs s.regs e (wholeOutput s i)) :
      ∃ n : Nat, a = n ∧ Covers [outSpan s.regs e (declaredOutput s i)] n := by
    obtain ⟨n, rfl, _⟩ := nat_of_mem_bytesFrom ha
    exact ⟨n, rfl, by rwa [wholeOutput_eq hi h, mem_outAddrs] at ha⟩
  cases i with
  | detect =>
    rw [statedWrites, elementSize, List.append_nil] at ha
    rcases List.mem_append.mp ha with ha | ha
    · exact covers_detectWriteSpans_of_mark ha
    · exact covers_detectWriteSpans_of_edge ha
  | score =>
    rw [statedWrites, elementSize, List.append_nil] at ha
    obtain ⟨c, _, hc⟩ := List.mem_map.mp ha
    rw [markAddr_natCast] at hc
    exact ⟨_, hc.symm, (scoreWriteSpans_eq h).mpr (by rwa [hc])⟩
  | extract | extractBkt | centroid | describe => exact hout 4 ha
  | atan2 => exact hout 1 ha
  | gridBucket | gridReduce | gridIndex | gridQuery => cases hi

theorem covers_declaredReads {i : Instr} {s : State} {n : Nat} (hlegal : Legal i s) (hi : isGridCommand i = false)
    (h : AllAdmitted s.params (decidingReads s i)) (ha : (n : Int) ∈ statedReads s i) :
    Covers (declaredReads s i) n := by
  cases i with
  | detect => exact mem_detectRect.mp ha
  | score => exact (scoreReadSpans_eq h).mpr ha
  | extract | extractBkt =>
    have hborder := border_of_legal rfl hlegal
    exact (covers_walkReadSpans (by omega)).mpr ha
  | centroid => exact covers_inputSpan.mpr ha
  | atan2 => exact covers_atan2ReadSpans.mpr ha
  | describe =>
    refine covers_describeReadSpans.mpr ((List.mem_append.mp ha).imp_right fun ha => ?_)
    obtain ⟨k, hk, hpix⟩ := List.mem_flatMap.mp ha
    obtain ⟨hk, hbin⟩ := List.mem_filter.mp hk
    exact ⟨k, List.mem_range.mp hk,
      ⟨firstRefused_input.mpr (allAdmitted_input h hk), of_decide_eq_true hbin⟩, hpix⟩
  | gridBucket | gridReduce | gridIndex | gridQuery => cases hi

/-- A command whose declared footprints share an address faults, whatever else would end it. -/
theorem exec_overlap {i : Instr} {s : State} {n : Nat} (hpass : Passes i s)
    (hw : Covers (worked i s).run.writes n) (hr : Covers (worked i s).run.reads n) :
    exec i s = .fault .footprintOverlap := by
  rw [← body_passes hpass] at hw hr
  exact (exec_eq i s).trans (runCommand_overlap hw hr)

theorem statedFootprintsFault {i : Instr} {s : State} {a : Int} (hlegal : Legal i s)
    (hadm : AllAdmitted s.params (decidingReads s i)) (hr : a ∈ statedReads s i) (hw : a ∈ statedWrites s i) :
    exec i s = .fault .footprintOverlap := by
  have hi : isGridCommand i = false := by
    cases i with
    | detect | score | extract | extractBkt | centroid | atan2 | describe => rfl
    | gridBucket | gridReduce | gridIndex | gridQuery =>
      simp [statedReads, statedWrites, wholeMarkWrites, elementSize] at hr hw
  have hpass : Passes i s := by
    refine ⟨hlegal, ?_⟩
    cases i with
    | detect | score | extract | extractBkt | centroid | atan2 | describe => rfl
    | gridBucket | gridReduce | gridIndex | gridQuery => cases hi
  obtain ⟨n, rfl, hcovers⟩ := covers_declaredWrites hi hadm hw
  have hext := worked_extends i s
  exact exec_overlap hpass (hext.writes n hcovers) (hext.reads n (covers_declaredReads hlegal hi hadm hr))

end Sys2Proof.Proofs
end

section
/-! A job: the elements that a command is to append, the reads it makes on the way, and how it can stop. What each part
of a command does towards a job, however it ends, and the rules that put the parts together (20_memory R65 to R68). -/

namespace Sys2Proof.Proofs

open Sys2Proof.Machine Sys2Proof.Safety

variable {α β : Type}

/-! ## The judgement -/

/-- What a command that appends is about. -/
structure Job where
  /-- the state its work begins with -/
  start : State
  /-- the bytes of one element -/
  esize : Nat
  /-- how many elements its write footprint counts -/
  total : Nat
  /-- the read footprint -/
  reads : List Span
  /-- the addresses at which a refused read can stop it -/
  stop : Int → Prop
  /-- whether an input can stop it -/
  bad : Prop

/-- The elements to be appended stand at no address that is read. -/
def Job.Safe (J : Job) : Prop := SpansApart J.reads [outSpan J.start.regs J.esize J.total]

/-- The run after the elements `es` have been appended. -/
structure After (J : Job) (es : List (List Byte)) (c : Run) : Prop where
  frame : c.st = { J.start with
    mem := Memory.writeBytes J.start.mem (outStart J.start.regs J.esize) es.flatten
    regs := { J.start.regs with outCount := J.start.regs.outCount + BitVec.ofNat 32 es.length }
    result := J.start.result + BitVec.ofNat 32 es.length
    index := c.st.index }
  size : ∀ b ∈ es, b.length = J.esize
  room : 0 < J.total → J.start.regs.outCount.toNat + es.length ≤ J.start.regs.outCap.toNat
  admitted : AllAdmitted J.start.params (outAddrs J.start.regs J.esize es.length)
  reads : ∀ a, Covers c.reads a → Covers J.reads a
  writes : ∀ a, Covers c.writes a → Covers [outSpan J.start.regs J.esize J.total] a

/-- How a command stops that has appended `m` elements of `n`: at a refused read, at the lowest refused byte of the next
element, for want of room, or at a bad input. -/
inductive Stops (J : Job) (n m : Nat) : ErrCode → Word → Prop
  | read {a : Int} (hstop : J.stop a) (href : admitted J.start.params a = false) : Stops J n m .bus (busInfo a)
  | write {a : Int} (hroom : J.start.regs.outCount.toNat + m < J.start.regs.outCap.toNat) (hm : m < n)
      (hlow : LowestOfElement J.start.params J.start.regs.outBase.toNat J.esize (J.start.regs.outCount.toNat + m) a)
      (href : admitted J.start.params a = false) : Stops J n m .bus (busInfo a)
  | full (hm : m < n) (hcap : J.start.regs.outCount.toNat + m = J.start.regs.outCap.toNat) :
      Stops J n m .outFull J.start.regs.outCap
  | input {e : ErrCode} {info : Word} (hbad : J.bad) (he : e = .kpBounds ∨ e = .badBin) : Stops J n m e info

theorem Stops.mono {J : Job} {n n' m : Nat} {e : ErrCode} {info : Word} (h : Stops J n m e info) (hn : n ≤ n') :
    Stops J n' m e info := by
  cases h with
  | read hstop href => exact .read hstop href
  | write hroom hm hlow href => exact .write hroom (hm.trans_le hn) hlow href
  | full hm hcap => exact .full (hm.trans_le hn) hcap
  | input hbad he => exact .input hbad he

/-- What a part does from a run in which `es` have been appended: it gives `v`, all addresses of `rd` admitted, with `out`
appended and the buckets left as `b'`; or it stops with some first elements of `out` appended. -/
inductive Outcome (J : Job) (rd : List Int) (v : α) (out : List (List Byte)) (b' : List Bucket)
    (es : List (List Byte)) : CmdResult α → Prop
  | ok {c' : Run} (hes : After J (es ++ out) c') (hb : c'.buckets = b') (hrd : AllAdmitted J.start.params rd) :
      Outcome J rd v out b' es (.ok v c')
  | err {e : ErrCode} {info : Word} {c' : Run} {part : List (List Byte)} (hpart : part <+: out)
      (hes : After J (es ++ part) c') (hstop : Stops J (es ++ out).length (es ++ part).length e info) :
      Outcome J rd v out b' es (.err e info c')

/-- A part that stops before it appends. -/
theorem Outcome.stop {J : Job} {rd : List Int} {v : α} {out es : List (List Byte)} {b' : List Bucket} {e : ErrCode}
    {info : Word} {c' : Run} (hes : After J es c') (hstop : Stops J (es ++ out).length es.length e info) :
    Outcome J rd v out b' es (.err e info c') :=
  .err List.nil_prefix (by rwa [List.append_nil]) (by rwa [List.append_nil])

/-- A part that appends nothing and reads nothing. -/
theorem Outcome.done {J : Job} {v : α} {es : List (List Byte)} {b' : List Bucket} {c' : Run} (hes : After J es c')
    (hb : c'.buckets = b') : Outcome J [] v [] b' es (.ok v c') := by
  rw [← List.append_nil es] at hes
  exact .ok hes hb fun _ ha => by cases ha

/-- The outcome of a part from every run of the job that still expects the elements it appends. -/
def Emits (J : Job) (x : Cmd α) (b b' : List Bucket) (rd : List Int) (v : α) (out : List (List Byte)) : Prop :=
  ∀ es c, (es ++ out).length ≤ J.total → After J es c → c.buckets = b → Outcome J rd v out b' es (x c)

variable {J : Job} {b b' b'' : List Bucket}

/-! ## Runs of a job -/

/-- A run that differs in the index table, the buckets and declared reads of the job at most. -/
theorem After.change {es : List (List Byte)} {c c' : Run} (h : After J es c)
    (hst : c'.st = { c.st with index := c'.st.index }) (hr : ∀ a, Covers c'.reads a → Covers J.reads a)
    (hw : c'.writes = c.writes) : After J es c' where
  frame := by rw [hst, h.frame]
  size := h.size
  room := h.room
  admitted := h.admitted
  reads := hr
  writes := hw ▸ h.writes

theorem After.params {es : List (List Byte)} {c : Run} (h : After J es c) : c.st.params = J.start.params := by
  rw [h.frame]

theorem After.outCap {es : List (List Byte)} {c : Run} (h : After J es c) :
    c.st.regs.outCap = J.start.regs.outCap := by rw [h.frame]

theorem After.outCount {es : List (List Byte)} {c : Run} (h : After J es c) (hes : es.length ≤ J.total) :
    c.st.regs.outCount.toNat = J.start.regs.outCount.toNat + es.length := by
  have hroom := h.room
  have hcount := J.start.regs.outCount.isLt
  have hcap := J.start.regs.outCap.isLt
  rw [h.frame, BitVec.toNat_add, BitVec.toNat_ofNat, Nat.mod_eq_of_lt (a := es.length) (by omega)]
  exact Nat.mod_eq_of_lt (by omega)

theorem length_flatten_of_size {e : Nat} {es : List (List Byte)} (h : ∀ b ∈ es, b.length = e) :
    es.flatten.length = e * es.length := by
  induction es with
  | nil => rfl
  | cons b es ih =>
    rw [List.flatten_cons, List.length_append, ih fun x hx => h x (List.mem_cons_of_mem b hx), h b List.mem_cons_self,
      List.length_cons, Nat.mul_succ, Nat.add_comm]

/-- Every byte outside the elements appended is as it was. -/
theorem After.read_outside {es : List (List Byte)} {c : Run} (h : After J es c) {a : Nat}
    (ha : ¬ Covers [outSpan J.start.regs J.esize es.length] a) :
    Memory.read c.st.mem a = Memory.read J.start.mem a := by
  rw [covers_outSpan] at ha
  rw [h.frame]
  refine Memory.read_writeBytes_outside _ _ _ _ ?_
  rw [length_flatten_of_size h.size, outStart]
  omega

/-- Every byte that the job reads is as it was. -/
theorem After.read_safe {es : List (List Byte)} {c : Run} (h : After J es c) (hJ : J.Safe) (hes : es.length ≤ J.total)
    {a : Nat} (ha : Covers J.reads a) : Memory.read c.st.mem a = Memory.read J.start.mem a := by
  refine h.read_outside fun hout => hJ a ?_ ha
  rw [covers_outSpan] at hout ⊢
  have := Nat.mul_le_mul_left J.esize hes
  omega

/-! ## Sequences -/

theorem Emits.bind {x : Cmd α} {f : α → Cmd β} {rd rd' : List Int} {v : α} {w : β} {out out' : List (List Byte)}
    (hx : Emits J x b b' rd v out) (hf : Emits J (f v) b' b'' rd' w out') :
    Emits J (Cmd.bind x f) b b'' (rd ++ rd') w (out ++ out') := by
  intro es c hlen hes hb
  simp only [List.length_append] at hlen
  have h := hx es c (by simp only [List.length_append]; omega) hes hb
  cases hxc : x c with
  | ok _ c' =>
    rw [hxc] at h
    obtain ⟨hes', hb', hrd⟩ | _ := h
    rw [Cmd.bind_ok hxc]
    have h' := hf (es ++ out) c' (by simp only [List.length_append]; omega) hes' hb'
    cases hfc : f v c' with
    | ok _ c'' =>
      rw [hfc] at h'
      obtain ⟨hes'', hb'', hrd'⟩ | _ := h'
      exact .ok (by rwa [← List.append_assoc]) hb'' fun a ha => (List.mem_append.mp ha).elim (hrd a) (hrd' a)
    | err e info c'' =>
      rw [hfc] at h'
      obtain _ | ⟨hpart, hes'', hstop⟩ := h'
      simp only [List.append_assoc] at hes'' hstop
      exact .err ((List.prefix_append_right_inj out).mpr hpart) hes'' hstop
  | err e info c' =>
    rw [hxc] at h
    obtain _ | ⟨hpart, hes', hstop⟩ := h
    rw [Cmd.bind_err hxc]
    refine .err (hpart.trans (List.prefix_append out out')) hes' (hstop.mono ?_)
    simp only [List.length_append]
    omega

/-- The addresses admitted may be listed otherwise, and the elements written otherwise. -/
theorem Emits.cast {x : Cmd α} {rd rd' : List Int} {v v' : α} {out out' : List (List Byte)}
    (h : Emits J x b b' rd v out) (hrd : ∀ a ∈ rd', a ∈ rd) (hv : v = v') (hout : out = out') : Emits J x b b' rd' v' out' := by
  subst hv hout
  intro es c hlen hes hb
  have h := h es c hlen hes hb
  generalize x c = res at h
  obtain ⟨hes', hb', hadm⟩ | ⟨hpart, hes', hstop⟩ := h
  · exact .ok hes' hb' fun a ha => hadm a (hrd a ha)
  · exact .err hpart hes' hstop

theorem Emits.cast_buckets {x : Cmd α} {rd : List Int} {v : α} {out : List (List Byte)} (h : Emits J x b b' rd v out)
    (hb : b' = b'') : Emits J x b b'' rd v out := hb ▸ h

theorem Emits.pure {v : α} : Emits J (Cmd.pure v) b b [] v [] := fun _ _ _ hes hb => .done hes hb

/-- A part without appends, and then another, which may take the addresses of the first as admitted. -/
theorem Emits.after {x : Cmd α} {f : α → Cmd β} {rd rd' : List Int} {v : α} {w : β} {out : List (List Byte)}
    (hx : Emits J x b b' rd v []) (hf : AllAdmitted J.start.params rd → Emits J (f v) b' b'' rd' w out) :
    Emits J (Cmd.bind x f) b b'' (rd ++ rd') w out := by
  by_cases hrd : AllAdmitted J.start.params rd
  · exact (hx.bind (hf hrd)).cast (fun _ h => h) rfl rfl
  · intro es c hlen hes hb
    have hes' : (es ++ []).length ≤ J.total := by
      simp only [List.length_append, List.length_nil] at hlen ⊢
      omega
    have h := hx es c hes' hes hb
    cases hxc : x c with
    | ok _ c' =>
      rw [hxc] at h
      obtain ⟨_, _, hadm⟩ | _ := h
      exact absurd hadm hrd
    | err e info c' =>
      rw [hxc] at h
      obtain _ | ⟨hpart, hes', hstop⟩ := h
      rw [Cmd.bind_err hxc]
      refine .err (hpart.trans List.nil_prefix) hes' (hstop.mono ?_)
      simp only [List.length_append, List.length_nil]
      omega

/-- Parts in a row, the buckets changing along `G`. -/
theorem Emits.forList {f : α → Cmd Unit} {as : List α} {G : List Bucket → α → List Bucket} {rd : α → List Int}
    {out : α → List (List Byte)} (h : ∀ a ∈ as, ∀ b, Emits J (f a) b (G b a) (rd a) () (out a)) (b : List Bucket) :
    Emits J (Cmd.forList as f) b (as.foldl G b) (as.flatMap rd) () (as.flatMap out) := by
  induction as generalizing b with
  | nil => exact Emits.pure
  | cons a as ih =>
    exact (h a List.mem_cons_self b).bind (ih (fun x hx => h x (List.mem_cons_of_mem a hx)) (G b a))

/-- Parts in a row that leave the buckets as they were. -/
theorem Emits.forList_same {f : α → Cmd Unit} {as : List α} {rd : α → List Int} {out : α → List (List Byte)}
    (h : ∀ a ∈ as, Emits J (f a) b b (rd a) () (out a)) :
    Emits J (Cmd.forList as f) b b (as.flatMap rd) () (as.flatMap out) := by
  induction as with
  | nil => exact Emits.pure
  | cons a as ih => exact (h a List.mem_cons_self).bind (ih fun x hx => h x (List.mem_cons_of_mem a hx))

theorem forRange_eq_forList (f : Nat → Cmd Unit) (lo n : Nat) :
    Cmd.forRange lo n f = Cmd.forList (List.range' lo n) f := by
  induction n generalizing lo with
  | zero => rfl
  | succ n ih => rw [Cmd.forRange_succ, ih]; rfl

/-- A loop over numbers whose turns leave the buckets as they were. -/
theorem Emits.forRange {f : Nat → Cmd Unit} {lo n : Nat} {rd : Nat → List Int} {out : Nat → List (List Byte)}
    (h : ∀ k ∈ List.range' lo n, Emits J (f k) b b (rd k) () (out k)) :
    Emits J (Cmd.forRange lo n f) b b ((List.range' lo n).flatMap rd) () ((List.range' lo n).flatMap out) := by
  rw [forRange_eq_forList]
  exact .forList_same h

/-- A loop that collects values and appends nothing. -/
theorem Emits.mapRange {f : Nat → Cmd α} {lo n : Nat} {rd : Nat → List Int} {v : Nat → α}
    (h : ∀ k ∈ List.range' lo n, Emits J (f k) b b (rd k) (v k) []) :
    Emits J (Cmd.mapRange lo n f) b b ((List.range' lo n).flatMap rd) ((List.range' lo n).map v) [] := by
  induction n generalizing lo with
  | zero => exact Emits.pure
  | succ n ih =>
    rw [List.range'_succ] at h ⊢
    have hrest : Emits J (Cmd.bind (Cmd.mapRange (lo + 1) n f) fun as => Cmd.pure (v lo :: as)) b b
        ((List.range' (lo + 1) n).flatMap rd ++ []) (v lo :: (List.range' (lo + 1) n).map v) [] :=
      .after (ih fun k hk => h k (List.mem_cons_of_mem lo hk)) fun _ => .pure
    rw [List.append_nil] at hrest
    exact (h lo List.mem_cons_self).after fun _ => hrest

/-! ## Single parts -/

theorem Emits.modifyBuckets (f : List Bucket → List Bucket) (b : List Bucket) :
    Emits J (Cmd.modifyBuckets f) b (f b) [] () [] :=
  fun _ _ _ hes hb => .done (hes.change rfl hes.reads rfl) (congrArg f hb)

theorem Emits.getBuckets : Emits J Cmd.getBuckets b b [] b [] := by
  rintro es c _ hes rfl
  exact .done hes rfl

/-- A change of the index table is none of the job's matters. -/
theorem Emits.modifyIndex (f : State → List Word) :
    Emits J (Cmd.modify fun s => { s with index := f s }) b b [] () [] :=
  fun _ _ _ hes hb => .done (hes.change rfl hes.reads rfl) hb

theorem Emits.declare {us : List Span} (h : ∀ a, Covers us a → Covers J.reads a) :
    Emits J (declareFootprint us []) b b [] () [] :=
  fun _ _ _ hes hb =>
    .done (hes.change rfl (fun a ha => (covers_append.mp ha).elim (h a) (hes.reads a)) rfl) hb

/-- A bad input ends the command with nothing appended. -/
theorem Emits.raise {e : ErrCode} {info : Word} {rd : List Int} {v : α} {out : List (List Byte)} (hbad : J.bad)
    (he : e = .kpBounds ∨ e = .badBin) : Emits J (Cmd.raise e info : Cmd α) b b' rd v out :=
  fun _ _ _ hes _ => .stop hes (.input hbad he)

/-- Byte reads in one group: BUS at a refused one, or their bytes as they were at the start. -/
theorem Emits.readUnordered (hJ : J.Safe) {as : List Int}
    (hreads : AllAdmitted J.start.params as → ∀ a ∈ as, Covers J.reads a.toNat) (hstop : ∀ a ∈ as, J.stop a) :
    Emits J (readUnordered as) b b as (as.map (byteAt J.start.mem)) [] := by
  intro es c hlen hes hb
  rw [List.append_nil] at hlen
  rcases readUnordered_cases as c with ⟨hadm, h⟩ | ⟨a, ha, href, h⟩
  · rw [h]
    rw [hes.params] at hadm
    have hbytes : (as.map fun a => Memory.read c.st.mem a.toNat) = as.map (byteAt J.start.mem) :=
      List.map_congr_left fun a ha => hes.read_safe hJ hlen (hreads hadm a ha)
    rw [hbytes]
    exact .ok (by rwa [List.append_nil]) hb hadm
  · rw [h]
    rw [hes.params] at href
    exact .stop hes (.read (hstop a ha) href)

theorem memReadWord_cases (a : Int) (c : Run) :
    (firstRefused c.st.params a 4 = none ∧
      memReadWord a c = .ok (wordOfBytes (Memory.readBytes c.st.mem a.toNat 4)) c) ∨
    (∃ b, firstRefused c.st.params a 4 = some b ∧ memReadWord a c = .err .bus (busInfo b) c) := by
  rcases admitAccess_cases 4 a c with ⟨h, _⟩ | ⟨b, hb, he⟩
  · exact .inl ⟨h, memReadWord_ok (firstRefused_eq_none.mp h)⟩
  · exact .inr ⟨b, hb, Cmd.bind_err (Cmd.bind_err he)⟩

/-- Input word k: BUS at its lowest refused byte, or the word as it was at the start. -/
theorem Emits.memReadWord (hJ : J.Safe) {k : Nat}
    (hreads : AllAdmitted J.start.params (inputAddrs J.start.regs [k]) →
      ∀ a : Nat, (a : Int) ∈ inputAddrs J.start.regs [k] → Covers J.reads a)
    (hstop : ∀ a, LowestOfElement J.start.params J.start.regs.inBase.toNat 4 k a → J.stop a) :
    Emits J (memReadWord (inAddr J.start.regs k)) b b (inputAddrs J.start.regs [k]) (inputWord J.start k) [] := by
  intro es c hlen hes hb
  rw [List.append_nil] at hlen
  rcases memReadWord_cases (inAddr J.start.regs k) c with ⟨hnone, h⟩ | ⟨a, hsome, h⟩
  · rw [h]
    rw [hes.params] at hnone
    have hadm := firstRefused_input.mp hnone
    have hbytes : Memory.readBytes c.st.mem (inAddr J.start.regs k).toNat 4 =
        Memory.readBytes J.start.mem (inAddr J.start.regs k).toNat 4 := by
      refine Memory.readBytes_congr _ _ _ _ fun a hlo hhi => hes.read_safe hJ hlen (hreads hadm a ?_)
      rw [inAddr, Int.toNat_natCast] at hlo hhi
      exact mem_inputAddrs.mpr ⟨k, List.mem_singleton_self k, hlo, hhi⟩
    rw [hbytes, inputWord_eq]
    exact .ok (by rwa [List.append_nil]) hb hadm
  · rw [h]
    rw [hes.params] at hsome
    obtain ⟨j, hj, rfl, href, hbelow⟩ := firstRefused_eq_some hsome
    have hcast (n : Nat) :
        inAddr J.start.regs k + (n : Int) = ((J.start.regs.inBase.toNat + 4 * k + n : Nat) : Int) := by
      rw [inAddr, ← Nat.cast_add]
    simp only [hcast] at hbelow href ⊢
    exact .stop hes (.read (hstop _ ⟨j, hj, rfl, hbelow⟩) href)

/-- One more element appended. -/
theorem After.append {es : List (List Byte)} {c : Run} {bs : List Byte} (h : After J es c) (hbs : bs.length = J.esize)
    (hlen : es.length < J.total) (hfull : c.st.regs.outCount ≠ c.st.regs.outCap)
    (hadm : ∀ i : Nat, i < bs.length → Machine.admitted c.st.params (appendAddr c.st.regs bs.length + i) = true) :
    After J (es ++ [bs]) { c with
      st := State.countElement
        { c.st with mem := Memory.writeBytes c.st.mem (appendAddr c.st.regs bs.length).toNat bs } } := by
  have hcount := h.outCount hlen.le
  have haddr : (appendAddr c.st.regs bs.length).toNat = outStart J.start.regs J.esize + es.flatten.length := by
    rw [appendAddr_toNat, outStart, hbs, hcount, length_flatten_of_size h.size, outStart, Nat.mul_add, ← Nat.add_assoc]
    rw [h.frame]
  have hlt : J.start.regs.outCount.toNat + es.length < J.start.regs.outCap.toNat := by
    refine Nat.lt_of_le_of_ne (h.room (by omega)) fun he => hfull (BitVec.eq_of_toNat_eq ?_)
    rw [hcount, h.outCap, he]
  refine ⟨?_, fun x hx => ?_, ?_, fun a ha => ?_, h.reads, h.writes⟩
  · rw [haddr, List.flatten_append, List.flatten_singleton, Memory.writeBytes_append, h.frame]
    simp [State.countElement, BitVec.ofNat_add, BitVec.add_assoc]
  · rcases List.mem_append.mp hx with hx | hx
    · exact h.size x hx
    · rw [List.mem_singleton.mp hx, hbs]
  · rw [List.length_append, List.length_singleton]; omega
  · obtain ⟨n, rfl, hlo, hhi⟩ := nat_of_mem_bytesFrom ha
    rw [List.length_append, List.length_singleton, Nat.mul_add, Nat.mul_one] at hhi
    by_cases hold : n < outStart J.start.regs J.esize + J.esize * es.length
    · exact h.admitted _ (mem_bytesFrom.mpr ⟨hlo, hold⟩)
    · rw [length_flatten_of_size h.size] at haddr
      have hint : appendAddr c.st.regs bs.length =
          ((outStart J.start.regs J.esize + J.esize * es.length : Nat) : Int) := by
        rw [← haddr, appendAddr, Int.toNat_natCast]
      have := hadm (n - (outStart J.start.regs J.esize + J.esize * es.length)) (by omega)
      rwa [hint, h.params, ← Nat.cast_add, Nat.add_sub_cancel' (by omega)] at this

theorem Emits.append {bs : List Byte} (hbs : bs.length = J.esize) : Emits J (append bs) b b [] () [bs] := by
  intro es c hlen hes hb
  rw [List.length_append, List.length_singleton] at hlen
  have hcount := hes.outCount (by omega)
  rcases append_cases bs c with ⟨hfull, h⟩ | ⟨hfull, hadm, h⟩ | ⟨hfull, a, ha, h⟩
  · rw [h]
    rw [hfull, hes.outCap]
    rw [hfull, hes.outCap] at hcount
    exact .stop hes (.full (by simp) hcount.symm)
  · rw [h]
    exact .ok (hes.append hbs hlen hfull hadm) hb fun a ha => by cases ha
  · rw [h]
    have hlt : J.start.regs.outCount.toNat + es.length < J.start.regs.outCap.toNat := by
      refine Nat.lt_of_le_of_ne (hes.room (by omega)) fun he => hfull (BitVec.eq_of_toNat_eq ?_)
      rw [hcount, hes.outCap, he]
    rw [hes.params] at ha
    obtain ⟨j, hj, rfl, href, hbelow⟩ := firstRefused_eq_some ha
    have hcast (n : Nat) : appendAddr c.st.regs bs.length + (n : Int) =
        ((J.start.regs.outBase.toNat + J.esize * (J.start.regs.outCount.toNat + es.length) + n : Nat) : Int) := by
      rw [appendAddr, hcount, hbs, ← Nat.cast_add]
      rw [hes.frame]
    simp only [hcast] at href hbelow ⊢
    exact .stop hes (.write hlt (by simp) ⟨j, hbs ▸ hj, rfl, hbelow⟩ href)

theorem Emits.appendWord (w : Word) (he : J.esize = 4) : Emits J (appendWord w) b b [] () [wordBytes w] :=
  .append he.symm

/-- The words of a list, one after another. -/
theorem Emits.appendWords (ws : List Word) (he : J.esize = 4) :
    Emits J (Cmd.forList ws Machine.appendWord) b b [] () (ws.map wordBytes) :=
  (Emits.forList_same fun w _ => .appendWord w he).cast (fun a ha => by cases ha) rfl List.map_eq_flatMap.symm

end Sys2Proof.Proofs
end

section
/-! The suppression walk as a job: the blocks of the walk in a row, EXTRACT, GRID_BUCKET, and EXTRACT_BKT, whose stripes
together fill and flush the grid that GRID_BUCKET would fill (42_nms_extract R160 to R174). -/

namespace Sys2Proof.Proofs

open Sys2Proof.Machine Sys2Proof.Safety

variable {α β : Type}

/-! ## Loops over lists of lists -/

theorem forList_append (as bs : List α) (f : α → Cmd Unit) :
    Cmd.forList (as ++ bs) f = Cmd.bind (Cmd.forList as f) fun _ => Cmd.forList bs f := by
  induction as with
  | nil => rfl
  | cons a as ih => rw [List.cons_append, Cmd.forList_cons, ih, Cmd.forList_cons, bind_assoc]

theorem forList_flatMap (as : List α) (g : α → List β) (f : β → Cmd Unit) :
    Cmd.forList (as.flatMap g) f = Cmd.forList as fun a => Cmd.forList (g a) f := by
  induction as with
  | nil => rfl
  | cons a as ih => rw [List.flatMap_cons, forList_append, ih, Cmd.forList_cons]

theorem forList_map (as : List α) (g : α → β) (f : β → Cmd Unit) :
    Cmd.forList (as.map g) f = Cmd.forList as fun a => f (g a) := by
  induction as with
  | nil => rfl
  | cons a as ih => rw [List.map_cons, Cmd.forList_cons, ih, Cmd.forList_cons]

/-! ## The blocks of the walk -/

/-- The block at an origin. -/
def blockAt (r : ParamRegs) (f : Survivor → Cmd Unit) (c : Nat × Nat) : Cmd Unit :=
  Cmd.bind (readUnordered (windowAddrs r c.1 c.2)) fun win => Cmd.forList (blockSurvivors r win c.1 c.2) f

/-- The origins of the blocks of block row `ky`. -/
def rowOrigins (r : ParamRegs) (ky : Nat) : List (Nat × Nat) :=
  (List.range' 0 (blockCount r.width r.border)).map fun kx => (r.border.toNat + 2 * kx, r.border.toNat + 2 * ky)

theorem blockOrigins_eq (r : ParamRegs) :
    blockOrigins r = (List.range' 0 (blockCount r.height r.border)).flatMap (rowOrigins r) := rfl

theorem walkRows_eq (r : ParamRegs) (f : Survivor → Cmd Unit) (lo n : Nat) :
    walkRows r f lo n = Cmd.forList ((List.range' lo n).flatMap (rowOrigins r)) (blockAt r f) := by
  simp only [forList_flatMap, rowOrigins, forList_map, walkRows, forRange_eq_forList]
  rfl

theorem walk_eq (r : ParamRegs) (f : Survivor → Cmd Unit) :
    walk r f = Cmd.forList (blockOrigins r) (blockAt r f) := walkRows_eq r f _ _

/-- The survivors of the block at an origin, if the platform answers at its window. -/
def survivorsAt (s : State) (c : Nat × Nat) : List Survivor :=
  if (windowAddrs s.regs c.1 c.2).all (admitted s.params) then
    blockSurvivors s.regs ((windowAddrs s.regs c.1 c.2).map (byteAt s.mem)) c.1 c.2
  else []

theorem survivorsIn_eq_flatMap (s : State) :
    survivorsIn s.params s.regs s.mem = (blockOrigins s.regs).flatMap (survivorsAt s) := rfl

theorem inRegion_of_mem_survivorsAt {s : State} {ky : Nat} {c : Nat × Nat} {v : Survivor}
    (hc : c ∈ rowOrigins s.regs ky) (hv : v ∈ survivorsAt s c) :
    InRegion s.regs v ∧ (v.y = s.regs.border.toNat + 2 * ky ∨ v.y = s.regs.border.toNat + 2 * ky + 1) := by
  obtain ⟨kx, _, rfl⟩ := List.mem_map.mp hc
  unfold survivorsAt at hv
  split at hv
  · refine ⟨inRegion_of_mem_blockSurvivors (by dsimp only; omega) (by dsimp only; omega) hv, ?_⟩
    simp only [blockSurvivors, List.mem_map, List.mem_filter] at hv
    obtain ⟨cand, ⟨hcand, _⟩, rfl⟩ := hv
    have hrow : ∀ cand ∈ candidates, cand.1.2 = 0 ∨ cand.1.2 = 1 := by decide
    rcases hrow cand hcand with h | h <;> simp [h]
  · cases hv

/-! ## The walk as part of a job -/

/-- The windows of some blocks are in the job's read footprint, and a refused mark of theirs can stop it. -/
structure Job.Walks (J : Job) (os : List (Nat × Nat)) : Prop where
  reads : ∀ c ∈ os, ∀ a ∈ windowAddrs J.start.regs c.1 c.2, Covers J.reads a.toNat
  stop : ∀ c ∈ os, ∀ a ∈ windowAddrs J.start.regs c.1 c.2, J.stop a

theorem Job.Walks.of_subset {J : Job} {os os' : List (Nat × Nat)} (h : J.Walks os) (hsub : os' ⊆ os) : J.Walks os' :=
  ⟨fun c hc => h.reads c (hsub hc), fun c hc => h.stop c (hsub hc)⟩

variable {J : Job}

/-- One block: its window, then each of its survivors. -/
theorem Emits.blockAt (hJ : J.Safe) {os : List (Nat × Nat)} (hw : J.Walks os) {f : Survivor → Cmd Unit}
    {G : List Bucket → Survivor → List Bucket} {out : Survivor → List (List Byte)}
    (hf : ∀ v b, Emits J (f v) b (G b v) [] () (out v)) {c : Nat × Nat} (hc : c ∈ os) (b : List Bucket) :
    Emits J (blockAt J.start.regs f c) b ((survivorsAt J.start c).foldl G b) (windowAddrs J.start.regs c.1 c.2) ()
      ((survivorsAt J.start c).flatMap out) := by
  refine ((Emits.readUnordered hJ (fun _ => hw.reads c hc) (hw.stop c hc)).after fun hadm => ?_).cast
    (fun a ha => List.mem_append_left [] ha) rfl rfl
  rw [survivorsAt, if_pos (List.all_eq_true.mpr hadm)]
  exact (Emits.forList (fun v _ => hf v) b).cast (fun _ ha => by cases ha) rfl rfl

/-- Some blocks in a row. -/
theorem Emits.blocks (hJ : J.Safe) {os : List (Nat × Nat)} (hw : J.Walks os) {f : Survivor → Cmd Unit}
    {G : List Bucket → Survivor → List Bucket} {out : Survivor → List (List Byte)}
    (hf : ∀ v b, Emits J (f v) b (G b v) [] () (out v)) (b : List Bucket) :
    Emits J (Cmd.forList os (Proofs.blockAt J.start.regs f)) b ((os.flatMap (survivorsAt J.start)).foldl G b)
      (os.flatMap fun c => windowAddrs J.start.regs c.1 c.2) () ((os.flatMap (survivorsAt J.start)).flatMap out) := by
  rw [List.foldl_flatMap, List.flatMap_assoc]
  exact .forList (fun c hc b => .blockAt hJ hw hf hc b) b

/-- EXTRACT appends the word of each survivor. -/
theorem extract_emits {s : State} (hJ : J.Safe) (hs : J.start = s) (he : J.esize = 4)
    (hw : J.Walks (blockOrigins s.regs)) :
    Emits J (work .extract s) [] [] (walkReads s.regs) ()
      ((survivorsIn s.params s.regs s.mem).map fun v => wordBytes v.word) := by
  subst hs
  dsimp only [work]
  rw [walk_eq]
  refine (Emits.blocks hJ hw (G := fun b _ => b) (fun v b => .appendWord v.word he) []).cast (fun _ ha => ha) rfl ?_
    |>.cast_buckets (List.foldl_fixed _)
  exact List.map_eq_flatMap.symm

/-- GRID_BUCKET walks without appending. -/
theorem gridBucket_emits {s : State} {J : Job} (hJ : J.Safe) (hr : J.start.regs = s.regs)
    (hw : J.Walks (blockOrigins s.regs)) : ∃ b, Emits J (work .gridBucket s) [] b (walkReads s.regs) () [] := by
  dsimp only [work]
  rw [walk_eq, ← hr]
  rw [← hr] at hw
  exact ⟨_, ((Emits.modifyBuckets _ []).after fun _ =>
    (.blocks hJ hw (out := fun _ => []) (fun v b => .modifyBuckets _ b) _)).cast (fun _ ha => ha) rfl (by simp)⟩

/-! ## The stripes of EXTRACT_BKT cover the walk -/

/-- Ranges of `q` numbers laid end to end, the last one cut at `n`. -/
theorem stripes_cover {n q m : Nat} (h : n ≤ m * q) :
    (List.range' 0 m).flatMap (fun i => List.range' (i * q) (min q (n - i * q))) = List.range' 0 n := by
  have hupto : ∀ m, (List.range' 0 m).flatMap (fun i => List.range' (i * q) (min q (n - i * q))) =
      List.range' 0 (min n (m * q)) := by
    intro m
    induction m with
    | zero => simp
    | succ m ih =>
      rw [List.range'_concat, List.flatMap_append, ih, List.flatMap_singleton, Nat.zero_add, Nat.one_mul, Nat.succ_mul]
      by_cases hn : n ≤ m * q
      · rw [Nat.min_eq_left hn, Nat.sub_eq_zero_of_le hn, Nat.min_zero, Nat.min_eq_left (by omega)]
        simp
      · have := List.range'_append (s := 0) (m := m * q) (n := min q (n - m * q)) (step := 1)
        rw [Nat.min_eq_right (by omega), show min n (m * q + q) = m * q + min q (n - m * q) by omega, ← this]
        simp
  rw [hupto, Nat.min_eq_left h]

/-- The stripes hold every block row (42_nms_extract R169). -/
theorem blockCount_le_stripes {r : ParamRegs} (hb : 1 ≤ r.logBkt.toNat) (hrows : blockOrigins r ≠ []) :
    blockCount r.height r.border ≤ gridRows r * 2 ^ (r.logBkt.toNat - 1) := by
  obtain ⟨c, hc⟩ := List.exists_mem_of_ne_nil _ hrows
  obtain ⟨ky, kx, hky, hkx, _⟩ := mem_blockOrigins.mp hc
  unfold blockCount innerExtent at *
  rw [gridRows, geometry_nonempty _ (by omega) (by omega)]
  dsimp only [bucketsAlong]
  obtain ⟨q, hq, hpow⟩ : ∃ q, 0 < q ∧ 2 ^ (r.logBkt.toNat - 1) = q := ⟨_, Nat.two_pow_pos _, rfl⟩
  have hpow2 : 2 ^ r.logBkt.toNat = 2 * q := by rw [← hpow, ← Nat.pow_succ']; congr 1; omega
  rw [hpow, hpow2]
  have hlt := Nat.lt_mul_div_succ (r.height.toNat - 2 * r.border.toNat + 2 * q - 1) (show 0 < 2 * q by omega)
  generalize (r.height.toNat - 2 * r.border.toNat + 2 * q - 1) / (2 * q) = m at hlt ⊢
  have hmul : 2 * q * (m + 1) = 2 * (m * q) + 2 * q := by ring
  omega

/-! ## What the stripes flush is the filled grid (42_nms_extract R170) -/

theorem insertInto_append_right (k : Nat) (w : Word) (A B : List Bucket) (n : Nat) :
    insertInto k w (A.length + n) (A ++ B) = A ++ insertInto k w n B := by
  induction A with
  | nil => simp
  | cons a A ih => rw [List.length_cons, Nat.add_right_comm, List.cons_append, insertInto, ih, List.cons_append]

theorem insertInto_append_left {k : Nat} {w : Word} {B C : List Bucket} {n : Nat} (hn : n < B.length) :
    insertInto k w n (B ++ C) = insertInto k w n B ++ C := by
  induction B generalizing n with
  | nil => simp at hn
  | cons b B ih =>
    cases n with
    | zero => rfl
    | succ n => rw [List.cons_append, insertInto, ih (by simpa using hn), insertInto, List.cons_append]

/-- The row and the column of buckets that a survivor falls in. -/
def bucketRow (r : ParamRegs) (v : Survivor) : Nat := (v.y - r.border.toNat) / 2 ^ r.logBkt.toNat
def bucketCol (r : ParamRegs) (v : Survivor) : Nat := (v.x - r.border.toNat) / 2 ^ r.logBkt.toNat

/-- A survivor into the grid of GRID_BUCKET. -/
def insertGrid (r : ParamRegs) (bs : List Bucket) (v : Survivor) : List Bucket :=
  insertInto r.bktK.toNat v.word (ownerBucket (gridCols r) r.border.toNat r.logBkt.toNat v.x v.y) bs

/-- A survivor into one stripe of EXTRACT_BKT. -/
def insertStripe (r : ParamRegs) (bs : List Bucket) (v : Survivor) : List Bucket :=
  insertInto r.bktK.toNat v.word (bucketCol r v) bs

theorem fillGrid_eq (r : ParamRegs) (vs : List Survivor) :
    fillGrid r vs = vs.foldl (insertGrid r) (emptyBuckets (gridCols r * gridRows r)) := rfl

/-- One stripe filled from empty. -/
def stripeOf (r : ParamRegs) (vs : List Survivor) : List Bucket := vs.foldl (insertStripe r) (emptyBuckets (gridCols r))

theorem length_foldl_insertStripe (r : ParamRegs) (vs : List Survivor) (bs : List Bucket) :
    (vs.foldl (insertStripe r) bs).length = bs.length := by
  induction vs generalizing bs with
  | nil => rfl
  | cons v vs ih => exact (ih _).trans (length_insertInto _ _ _ _)

/-- Survivors of one bucket row change that row alone, as they change their stripe. -/
theorem foldl_insertGrid_row {r : ParamRegs} {i : Nat} {vs : List Survivor} {A B C : List Bucket}
    (hA : A.length = i * gridCols r) (hB : B.length = gridCols r)
    (hvs : ∀ v ∈ vs, bucketRow r v = i ∧ bucketCol r v < gridCols r) :
    vs.foldl (insertGrid r) (A ++ (B ++ C)) = A ++ (vs.foldl (insertStripe r) B ++ C) := by
  induction vs generalizing B with
  | nil => rfl
  | cons v vs ih =>
    obtain ⟨hrow, hcol⟩ := hvs v List.mem_cons_self
    have hinsert : insertGrid r (A ++ (B ++ C)) v = A ++ (insertStripe r B v ++ C) := by
      rw [insertGrid, show ownerBucket (gridCols r) r.border.toNat r.logBkt.toNat v.x v.y =
        bucketRow r v * gridCols r + bucketCol r v from rfl, hrow, ← hA, insertInto_append_right,
        insertInto_append_left (hB ▸ hcol)]
      rfl
    rw [List.foldl_cons, hinsert, List.foldl_cons]
    exact ih ((length_insertInto _ _ _ _).trans hB) fun v hv => hvs v (List.mem_cons_of_mem _ hv)

/-- Filling the grid with the survivors of each bucket row in turn fills it stripe by stripe. -/
theorem foldl_insertGrid_rows {r : ParamRegs} {S : Nat → List Survivor} {lo m : Nat} {A : List Bucket}
    (hA : A.length = lo * gridCols r)
    (hS : ∀ i ∈ List.range' lo m, ∀ v ∈ S i, bucketRow r v = i ∧ bucketCol r v < gridCols r) :
    ((List.range' lo m).flatMap S).foldl (insertGrid r) (A ++ emptyBuckets (gridCols r * m)) =
      A ++ (List.range' lo m).flatMap fun i => stripeOf r (S i) := by
  induction m generalizing lo A with
  | zero => simp [emptyBuckets]
  | succ m ih =>
    have hlen : (stripeOf r (S lo)).length = gridCols r :=
      (length_foldl_insertStripe _ _ _).trans List.length_replicate
    have hsplit : emptyBuckets (gridCols r * (m + 1)) = emptyBuckets (gridCols r) ++ emptyBuckets (gridCols r * m) := by
      rw [emptyBuckets, Nat.mul_succ, Nat.add_comm, List.replicate_add]
      rfl
    rw [List.range'_succ] at hS ⊢
    have hrow : (S lo).foldl (insertGrid r) (A ++ (emptyBuckets (gridCols r) ++ emptyBuckets (gridCols r * m))) =
        A ++ (stripeOf r (S lo) ++ emptyBuckets (gridCols r * m)) :=
      foldl_insertGrid_row hA List.length_replicate (hS lo List.mem_cons_self)
    rw [List.flatMap_cons, List.foldl_append, hsplit, hrow, ← List.append_assoc,
      ih (by rw [List.length_append, hlen, hA, Nat.succ_mul]) fun i hi => hS i (List.mem_cons_of_mem lo hi),
      List.flatMap_cons, List.append_assoc]

/-- The origins of the blocks of stripe `i`. -/
def stripeOrigins (r : ParamRegs) (i : Nat) : List (Nat × Nat) :=
  (List.range' (i * 2 ^ (r.logBkt.toNat - 1)) (stripeBlockRows r i)).flatMap (rowOrigins r)

/-- The stripes together are the walk. -/
theorem stripeOrigins_cover {r : ParamRegs} (hb : 1 ≤ r.logBkt.toNat) :
    (List.range' 0 (gridRows r)).flatMap (stripeOrigins r) = blockOrigins r := by
  by_cases hrows : blockOrigins r = []
  · rw [hrows, List.flatMap_eq_nil_iff]
    rw [blockOrigins_eq, List.flatMap_eq_nil_iff] at hrows
    refine fun i _ => List.flatMap_eq_nil_iff.mpr fun ky hky => hrows ky ?_
    rw [List.mem_range'_1] at hky ⊢
    unfold stripeBlockRows at hky
    omega
  · rw [blockOrigins_eq, ← stripes_cover (blockCount_le_stripes hb hrows), List.flatMap_assoc]
    rfl

/-- A survivor of stripe `i` falls in bucket row `i`, and in one of the columns. -/
theorem bucketRow_of_stripe {s : State} (hb : 1 ≤ s.regs.logBkt.toNat) {i : Nat} {v : Survivor}
    (hv : v ∈ (stripeOrigins s.regs i).flatMap (survivorsAt s)) :
    bucketRow s.regs v = i ∧ bucketCol s.regs v < gridCols s.regs := by
  obtain ⟨c, hc, hv⟩ := List.mem_flatMap.mp hv
  obtain ⟨ky, hky, hc⟩ := List.mem_flatMap.mp hc
  obtain ⟨⟨⟨hx, hx'⟩, hy, hy'⟩, hrow⟩ := inRegion_of_mem_survivorsAt hc hv
  rw [List.mem_range'_1] at hky
  unfold stripeBlockRows at hky
  constructor
  · have hpow2 : 2 ^ s.regs.logBkt.toNat = 2 * 2 ^ (s.regs.logBkt.toNat - 1) := by
      rw [← Nat.pow_succ']; congr 1; omega
    generalize 2 ^ (s.regs.logBkt.toNat - 1) = q at hky hpow2
    rw [bucketRow, hpow2]
    refine Nat.div_eq_of_lt_le ?_ ?_
    · rw [show i * (2 * q) = 2 * (i * q) by ring]; omega
    · rw [show (i + 1) * (2 * q) = 2 * (i * q) + 2 * q by ring]; omega
  · rw [gridCols, geometry_nonempty _ (by omega) (by omega)]
    exact cell_lt_bucketsAlong hx hx'

/-- The filled grid, stripe by stripe. -/
theorem fillGrid_stripes {s : State} (hb : 1 ≤ s.regs.logBkt.toNat) :
    fillGrid s.regs (survivorsIn s.params s.regs s.mem) =
      (List.range' 0 (gridRows s.regs)).flatMap fun i =>
        stripeOf s.regs ((stripeOrigins s.regs i).flatMap (survivorsAt s)) := by
  have h := foldl_insertGrid_rows (r := s.regs) (S := fun i => (stripeOrigins s.regs i).flatMap (survivorsAt s))
    (lo := 0) (m := gridRows s.regs) (A := []) (by simp) fun i _ v hv => bucketRow_of_stripe hb hv
  rw [← List.flatMap_assoc, stripeOrigins_cover hb] at h
  exact h

/-! ## EXTRACT_BKT as a job -/

variable {b : List Bucket}

theorem Emits.flushStripe (he : J.esize = 4) (hb : Nat) :
    Emits J (flushStripe hb) b (emptyBuckets hb) [] () ((flatten b).map wordBytes) := by
  refine (Emits.getBuckets.after fun _ => ((Emits.forList_same fun ws _ => .appendWords ws he).bind
    (.modifyBuckets (fun _ => emptyBuckets hb) b))).cast (fun a ha => by cases ha) rfl ?_
  rw [List.append_nil, flatten, List.map_flatMap]

/-- One stripe: filled from empty, flushed, and emptied again. -/
theorem Emits.stripe (hJ : J.Safe) (he : J.esize = 4) (i : Nat) (hw : J.Walks (stripeOrigins J.start.regs i)) :
    Emits J (Cmd.bind (fillStripe J.start.regs i) fun _ => Machine.flushStripe (gridCols J.start.regs))
      (emptyBuckets (gridCols J.start.regs)) (emptyBuckets (gridCols J.start.regs))
      ((stripeOrigins J.start.regs i).flatMap fun c => windowAddrs J.start.regs c.1 c.2) ()
      ((flatten (stripeOf J.start.regs ((stripeOrigins J.start.regs i).flatMap (survivorsAt J.start)))).map
        wordBytes) := by
  unfold fillStripe
  rw [walkRows_eq]
  refine (Emits.after (.cast (.blocks hJ hw (G := insertStripe J.start.regs) (out := fun _ => [])
    (fun v b => .modifyBuckets _ b) _) (fun _ ha => ha) rfl (by simp)) fun _ => (.flushStripe he _)).cast ?_ rfl rfl
  exact fun _ ha => List.mem_append_left _ ha

/-- EXTRACT_BKT appends the filled grid, bucket by bucket. -/
theorem extractBkt_emits {s : State} (hJ : J.Safe) (hs : J.start = s.loseGrid) (he : J.esize = 4)
    (hb : 1 ≤ s.regs.logBkt.toNat) (hw : J.Walks (blockOrigins s.regs)) :
    ∃ b, Emits J (work .extractBkt s) [] b (walkReads s.regs) ()
      ((flatten (fillGrid s.regs (survivorsIn s.params s.regs s.mem))).map wordBytes) := by
  have hr : J.start.regs = s.regs := by rw [hs]; rfl
  have hsurv : survivorsAt J.start = survivorsAt s := by rw [hs]; rfl
  have hstripe (i : Nat) (hi : i ∈ List.range' 0 (gridRows s.regs)) := Emits.stripe hJ he i
    (hw.of_subset fun c hc => by
      rw [← stripeOrigins_cover hb]
      exact List.mem_flatMap.mpr ⟨i, hi, hr ▸ hc⟩)
  rw [hr, hsurv] at hstripe
  dsimp only [work]
  refine ⟨_, ((Emits.modifyBuckets (fun _ => emptyBuckets (gridCols s.regs)) []).after fun _ =>
    .forRange hstripe).cast ?_ rfl ?_⟩
  · intro a ha
    rw [walkReads, ← stripeOrigins_cover hb, List.flatMap_assoc] at ha
    exact ha
  · rw [fillGrid_stripes hb, flatten, List.flatMap_assoc, List.map_flatMap]
    rfl

end Sys2Proof.Proofs
end

section
/-! GRID_INDEX and GRID_QUERY as jobs: the entries of the grid in order, and the features of the query's area, all of them
in the cells that the command visits (43_feature_grid R201 to R207). -/

namespace Sys2Proof.Proofs

open Sys2Proof.Machine Sys2Proof.Safety

variable {J : Job} {b : List Bucket} {β : Type}

/-! ## Loops over the cells of a grid -/

/-- A loop over rows and columns visits the cells in order. -/
theorem flatMap_cells (m n : Nat) (F : Nat → List β) :
    ((List.range' 0 m).flatMap fun i => (List.range' 0 n).flatMap fun j => F (i * n + j)) =
      (List.range (m * n)).flatMap F := by
  induction m with
  | zero => simp
  | succ m ih =>
    have hrow : ((List.range' 0 n).flatMap fun j => F (m * n + j)) = (List.range' (m * n) n).flatMap F := by
      rw [← Nat.add_zero (m * n), ← List.map_add_range', List.flatMap_map]
      rfl
    rw [List.range'_concat, List.flatMap_append, ih, List.flatMap_singleton, Nat.zero_add, Nat.one_mul, hrow,
      Nat.succ_mul, List.range_eq_range', List.range_eq_range', ← List.flatMap_append]
    congr 1
    simpa using List.range'_append (s := 0) (m := m * n) (n := n) (step := 1)

/-- A loop may leave out the numbers that give nothing. -/
theorem flatMap_range'_of_outside {n lo m : Nat} {F : Nat → List β} (hle : lo + m ≤ n)
    (hout : ∀ k, k < n → (k < lo ∨ lo + m ≤ k) → F k = []) :
    (List.range' 0 n).flatMap F = (List.range' lo m).flatMap F := by
  have hsplit : List.range' 0 n = List.range' 0 lo ++ List.range' lo m ++ List.range' (lo + m) (n - (lo + m)) := by
    have h1 := List.range'_append (s := 0) (m := lo) (n := m) (step := 1)
    have h2 := List.range'_append (s := 0) (m := lo + m) (n := n - (lo + m)) (step := 1)
    simp only [Nat.one_mul, Nat.zero_add] at h1 h2
    rw [h1, h2, Nat.add_sub_cancel' hle]
  have hnil (a k : Nat) (h : ∀ q ∈ List.range' a k, q < n ∧ (q < lo ∨ lo + m ≤ q)) :
      (List.range' a k).flatMap F = [] :=
    List.flatMap_eq_nil_iff.mpr fun q hq => hout q (h q hq).1 (h q hq).2
  rw [hsplit, List.flatMap_append, List.flatMap_append, hnil 0 lo, hnil (lo + m) (n - (lo + m)), List.nil_append,
    List.append_nil]
  · intro q hq; rw [List.mem_range'_1] at hq; omega
  · intro q hq; rw [List.mem_range'_1] at hq; omega

/-! ## GRID_INDEX -/

/-- The entries of the grid's buckets, row by row. -/
def gridEntries (g : Grid) : List Word := (List.range (g.vb * g.hb)).flatMap (bucketAt g.buckets)

theorem flatMap_bucketAt (bs : List Bucket) : (List.range bs.length).flatMap (bucketAt bs) = flatten bs := by
  induction bs with
  | nil => rfl
  | cons b bs ih =>
    rw [List.length_cons, List.range_succ_eq_map, List.flatMap_cons, List.flatMap_map, flatten, List.flatMap_cons,
      bucketAt_cons_zero]
    exact congrArg (b ++ ·) ih

/-- Where the geometry is legal, these are all the entries of the storage. -/
theorem gridEntries_eq {p : Params} {g : Grid} (h : GeometryOk p g) : gridEntries g = flatten g.buckets := by
  obtain ⟨_, _, _, _, _, _, _, _, _, hlen⟩ := h
  rw [gridEntries, Nat.mul_comm, ← hlen, flatMap_bucketAt]

theorem gridIndex_emits {s : State} (he : J.esize = 4) :
    Emits J (work .gridIndex s) [] [] [] () ((gridEntries s.grid).map wordBytes) := by
  have hbucket (q : Nat) : Emits J (indexBucket s.grid q) [] [] ([] ++ []) ()
      ((bucketAt s.grid.buckets q).map wordBytes) :=
    (Emits.modifyIndex _).after fun _ => .appendWords _ he
  refine (Emits.forRange fun i _ => Emits.forRange fun j _ => hbucket (i * s.grid.hb + j)).cast
    (fun a ha => by cases ha) rfl ?_
  rw [gridEntries, List.map_flatMap, ← flatMap_cells]

/-! ## GRID_QUERY -/

/-- The hits of one bucket of the grid. -/
def cellHits (s : State) (q : Nat) : List Word :=
  bucketHits s.regs.qX.toInt s.regs.qY.toInt s.regs.qR.toInt (s.index.getD q 0) 0 (bucketAt s.grid.buckets q)

/-- The first cell along an axis that the query visits, and how many it visits. -/
def firstCell (v r : Int) (border logB cells : Nat) : Nat := clampedCell (v - r) border logB cells
def cellsVisited (v r : Int) (border logB cells : Nat) : Nat :=
  clampedCell (v + r) border logB cells + 1 - clampedCell (v - r) border logB cells

/-- The hits of the cells that the query visits. -/
def visitedHits (s : State) : List Word :=
  let g := s.grid
  if g.hb = 0 ∨ g.vb = 0 then []
  else
    (List.range' (firstCell s.regs.qY.toInt s.regs.qR.toInt g.border g.logB g.vb)
        (cellsVisited s.regs.qY.toInt s.regs.qR.toInt g.border g.logB g.vb)).flatMap fun i =>
      (List.range' (firstCell s.regs.qX.toInt s.regs.qR.toInt g.border g.logB g.hb)
          (cellsVisited s.regs.qX.toInt s.regs.qR.toInt g.border g.logB g.hb)).flatMap fun j =>
        cellHits s (i * g.hb + j)

theorem Emits.queryEntries (he : J.esize = 4) (x y r : Int) (start : Word) (e : Nat) (kps : Bucket) :
    Emits J (queryEntries x y r start e kps) b b [] () ((bucketHits x y r start e kps).map wordBytes) := by
  induction kps generalizing e with
  | nil => exact Emits.pure
  | cons kp rest ih =>
    rw [bucketHits, List.map_append]
    refine Emits.bind (rd := []) (v := ()) ?_ (ih (e + 1))
    split
    · exact .appendWord _ he
    · exact .pure

theorem gridQuery_emits {s : State} (he : J.esize = 4) :
    Emits J (work .gridQuery s) [] [] [] () ((visitedHits s).map wordBytes) := by
  dsimp only [work, visitedHits]
  split
  · exact .pure
  · refine (Emits.forRange fun i _ => Emits.forRange fun j _ => Emits.queryEntries he _ _ _ _ _ _).cast
      (fun a ha => by cases ha) rfl ?_
    simp only [List.map_flatMap]
    rfl

theorem bucketHits_eq_nil {x y r : Int} {start : Word} {e : Nat} {kps : Bucket}
    (h : ∀ kp ∈ kps, inArea x y r kp = false) : bucketHits x y r start e kps = [] := by
  induction kps generalizing e with
  | nil => rfl
  | cons kp rest ih =>
    rw [bucketHits, h kp List.mem_cons_self, ih fun kp' hkp' => h kp' (List.mem_cons_of_mem kp hkp')]
    rfl

/-- A coordinate within `r` of `v`, in cell `j` along an axis, is in a cell that the query visits (43_feature_grid R205). -/
theorem visited_of_near {v r : Int} {border logB cells j k : Nat} (hj : j < cells)
    (hcell : border + j * 2 ^ logB ≤ k ∧ k < border + (j + 1) * 2 ^ logB) (hnear : v - r ≤ k ∧ (k : Int) ≤ v + r) :
    clampedCell (v - r) border logB cells ≤ j ∧ j ≤ clampedCell (v + r) border logB cells := by
  have hpos : (0 : Int) < 2 ^ logB := by positivity
  obtain ⟨hlo, hhi⟩ := hcell
  have hlo' : (border : Int) + j * 2 ^ logB ≤ k := by exact_mod_cast hlo
  have hhi' : (k : Int) < border + (j + 1) * 2 ^ logB := by exact_mod_cast hhi
  have hleft : (v - r - border) / 2 ^ logB ≤ j :=
    Int.lt_add_one_iff.mp ((Int.ediv_lt_iff_lt_mul hpos).mpr (by linarith))
  have hright : (j : Int) ≤ (v + r - border) / 2 ^ logB := (Int.le_ediv_iff_mul_le hpos).mpr (by linarith)
  unfold clampedCell clampInt
  omega

/-- Along an axis a loop over the cells that the query visits leaves out nothing, where a cell without a coordinate
within `r` of `v` gives nothing. -/
theorem flatMap_visited {v r : Int} {border logB cells : Nat} {F : Nat → List β} (hr : 0 ≤ r) (hc : 0 < cells)
    (hfar : ∀ j, j < cells → (∀ k : Nat, border + j * 2 ^ logB ≤ k ∧ k < border + (j + 1) * 2 ^ logB →
      ¬ (v - r ≤ k ∧ (k : Int) ≤ v + r)) → F j = []) :
    (List.range' 0 cells).flatMap F =
      (List.range' (firstCell v r border logB cells) (cellsVisited v r border logB cells)).flatMap F := by
  have hordered : clampedCell (v - r) border logB cells ≤ clampedCell (v + r) border logB cells := by
    have : (v - r - border) / 2 ^ logB ≤ (v + r - border) / 2 ^ logB :=
      Int.ediv_le_ediv (by positivity) (by linarith)
    unfold clampedCell clampInt
    omega
  have hlast : clampedCell (v + r) border logB cells < cells := by
    unfold clampedCell clampInt
    omega
  unfold firstCell cellsVisited
  refine flatMap_range'_of_outside (by omega) fun j hj hout => hfar j hj fun k hcell hnear => ?_
  have := visited_of_near hj hcell hnear
  omega

theorem near_of_inArea {x y r : Int} {kp : Word} (hr : 0 ≤ r) (h : inArea x y r kp = true) :
    (x - r ≤ ((kpX kp).toNat : Int) ∧ ((kpX kp).toNat : Int) ≤ x + r) ∧
      y - r ≤ ((kpY kp).toNat : Int) ∧ ((kpY kp).toNat : Int) ≤ y + r := by
  simp only [inArea, Bool.and_eq_true, decide_eq_true_eq] at h
  omega

/-- The cells that the query visits hold every feature of the area (43_feature_grid R207). -/
theorem visitedHits_eq {s : State} (hgrid : LegalGrid s.params s.grid) (hr : 0 ≤ s.regs.qR.toInt) :
    visitedHits s = areaHits s := by
  obtain ⟨_, hbuckets⟩ := hgrid
  have hall : areaHits s = (List.range' 0 s.grid.vb).flatMap fun i => (List.range' 0 s.grid.hb).flatMap fun j =>
      cellHits s (i * s.grid.hb + j) := (flatMap_cells _ _ _).symm
  have hnone (i j : Nat) (h : ∀ kp ∈ bucketAt s.grid.buckets (i * s.grid.hb + j),
      ¬ inArea s.regs.qX.toInt s.regs.qY.toInt s.regs.qR.toInt kp = true) : cellHits s (i * s.grid.hb + j) = [] :=
    bucketHits_eq_nil fun kp hkp => Bool.eq_false_iff.mpr (h kp hkp)
  rw [hall]
  dsimp only [visitedHits]
  split
  case isTrue hempty => rcases hempty with h | h <;> rw [h] <;> simp
  case isFalse hne =>
    have hrow (i : Nat) (hi : i < s.grid.vb) := flatMap_visited (F := fun j => cellHits s (i * s.grid.hb + j))
      (v := s.regs.qX.toInt) (border := s.grid.border) (logB := s.grid.logB) hr (show 0 < s.grid.hb by omega)
      fun j hj hfar => hnone i j fun kp hkp harea =>
        hfar _ ((hbuckets i j hi hj).2.2 kp hkp).1 (near_of_inArea hr harea).1
    rw [List.flatMap_congr fun i hi => hrow i (by rw [List.mem_range'_1] at hi; omega)]
    refine (flatMap_visited hr (by omega) fun i hi hfar => ?_).symm
    rw [← hrow i hi]
    refine List.flatMap_eq_nil_iff.mpr fun j hj => hnone i j fun kp hkp harea => ?_
    have hj : j < s.grid.hb := by rw [List.mem_range'_1] at hj; omega
    exact hfar _ ((hbuckets i j hi hj).2.2 kp hkp).2 (near_of_inArea hr harea).2

end Sys2Proof.Proofs
end

section
/-! ATAN2, CENTROID and DESCRIBE as jobs: the words they read, the pixels of each keypoint, and the elements they append
(44_orb_centroid R220 to R227, 45_orb_atan2 R235 to R242, 46_orb_describe R250 to R259). -/

namespace Sys2Proof.Proofs

open Sys2Proof.Machine Sys2Proof.Safety

variable {J : Job} {b b' : List Bucket} {α : Type}

/-! ## Input words -/

/-- Input word k is in the job's read footprint, and its lowest refused byte can stop it. -/
structure Job.ReadsWord (J : Job) (k : Nat) : Prop where
  reads : ∀ a : Nat, (a : Int) ∈ inputAddrs J.start.regs [k] → Covers J.reads a
  stop : ∀ a, LowestOfElement J.start.params J.start.regs.inBase.toNat 4 k a → J.stop a

theorem Job.ReadsWord.emits {k : Nat} (hw : J.ReadsWord k) (hJ : J.Safe) :
    Emits J (memReadWord (inAddr J.start.regs k)) b b (inputAddrs J.start.regs [k]) (inputWord J.start k) [] :=
  .memReadWord hJ (fun _ => hw.reads) hw.stop

theorem mem_inputAddrs_singleton {r : ParamRegs} {ks : List Nat} {a : Int} :
    a ∈ inputAddrs r ks ↔ ∃ k ∈ ks, a ∈ inputAddrs r [k] := by
  simp [inputAddrs]

/-! ## ATAN2 -/

/-- The byte that ATAN2 appends for pair k. -/
def binOf (s : State) (k : Nat) : Byte :=
  angleBin (inputWord s (momentIndex k)).toInt (inputWord s (momentIndex k + 4)).toInt

theorem atan2_emits {s : State} (hJ : J.Safe) (hs : J.start = s) (he : J.esize = 1)
    (hw : ∀ k ∈ atan2Inputs s.regs, J.ReadsWord k) :
    Emits J (work .atan2 s) [] [] (inputAddrs s.regs (atan2Inputs s.regs)) ()
      ((List.range' 0 s.regs.inCount.toNat).map fun k => [binOf s k]) := by
  subst hs
  have hpair (k : Nat) (hk : k ∈ List.range' 0 J.start.regs.inCount.toNat) :
      Emits J (atan2Pair J.start.regs k) [] [] (inputAddrs J.start.regs [momentIndex k] ++
        (inputAddrs J.start.regs [momentIndex k + 4] ++ [])) () [[binOf J.start k]] := by
    have hk : k < J.start.regs.inCount.toNat := by simpa using hk
    refine ((hw _ (mem_atan2Inputs.mpr ⟨k, hk, .inl rfl⟩)).emits hJ).after fun _ =>
      ((hw _ (mem_atan2Inputs.mpr ⟨k, hk, .inr rfl⟩)).emits hJ).after fun _ => .append he.symm
  refine (Emits.forRange hpair).cast (fun a ha => ?_) rfl List.map_eq_flatMap.symm
  obtain ⟨e, hmem, ha⟩ := mem_inputAddrs_singleton.mp ha
  obtain ⟨k, hk, he⟩ := mem_atan2Inputs.mp hmem
  refine List.mem_flatMap.mpr ⟨k, by simpa using hk, ?_⟩
  rcases he with rfl | rfl <;> simp [ha]

/-! ## Keypoints -/

/-- Keypoint k is read by the job, and where it has no margin it can stop it. -/
structure Job.Keypoint (J : Job) (k : Nat) : Prop extends J.ReadsWord k where
  margin : ¬ InMargin J.start k → J.bad

theorem inMargin_iff (s : State) (k : Nat) :
    inMargin s.regs (kpX (inputWord s k)).toNat (kpY (inputWord s k)).toNat = true ↔ InMargin s k := by
  simp [inMargin, InMargin, and_assoc]

/-- A keypoint read and its margin checked, and then a part that may take both as given. -/
theorem Job.Keypoint.emits {k : Nat} (hk : J.Keypoint k) (hJ : J.Safe) {f : Word → Cmd α} {rd : List Int} {v : α}
    {out : List (List Byte)} (hf : AllAdmitted J.start.params (inputAddrs J.start.regs [k]) → InMargin J.start k →
      Emits J (f (inputWord J.start k)) b b' rd v out) :
    Emits J (Cmd.bind (boundedKeypoint J.start.regs k) f) b b' (inputAddrs J.start.regs [k] ++ rd) v out := by
  unfold boundedKeypoint
  rw [bind_assoc]
  refine (hk.toReadsWord.emits hJ).after fun hadm => ?_
  by_cases hmargin : InMargin J.start k
  · rw [if_pos ((inMargin_iff J.start k).mpr hmargin)]
    exact hf hadm hmargin
  · rw [if_neg fun h => hmargin ((inMargin_iff J.start k).mp h)]
    exact .raise (hk.margin hmargin) (.inl rfl)

/-! ## CENTROID -/

/-- The disk of keypoint k too is in the job's read footprint, and a refused pixel of it can stop the job. -/
structure Job.Lane (J : Job) (k : Nat) : Prop extends J.Keypoint k where
  disk : ∀ a : Nat, (a : Int) ∈ diskOf J.start k → Covers J.reads a
  diskStop : InMargin J.start k → ∀ a ∈ diskOf J.start k, J.stop a

/-- What a lane reads. -/
def laneReads (s : State) (k : Nat) : List Int :=
  if k < s.regs.inCount.toNat then inputAddrs s.regs [k] ++ diskOf s k else []

theorem Emits.centroidLane (hJ : J.Safe) {k : Nat} (hk : k < J.start.regs.inCount.toNat → J.Lane k) :
    Emits J (centroidLane J.start.params J.start.regs k) b b (laneReads J.start k) (laneOf J.start k) [] := by
  unfold Machine.centroidLane laneReads laneOf
  split
  case isFalse => exact .pure
  case isTrue hlt =>
    obtain ⟨hkey, hdisk, hstop⟩ := hk hlt
    refine hkey.emits hJ fun _ hmargin => ?_
    refine ((Emits.declare fun a ha => hdisk a (covers_byteSpans.mp ha)).after fun _ =>
      (Emits.readUnordered hJ (fun hadm a ha => hdisk _ ?_) (hstop hmargin)).after
        (f := fun pixels => Cmd.pure (momentsOf J.start.params pixels)) fun _ => .pure).cast
      (fun a ha => by simpa using ha) rfl rfl
    rwa [Int.toNat_of_nonneg (admitted_bounds (hadm a ha)).1]

/-- The words of one group: the first moments of its lanes, then the second ones (30_encoding R91). -/
def groupWords (s : State) (g : Nat) : List Word :=
  (List.range 4).map (fun l => (laneOf s (4 * g + l)).1) ++ (List.range 4).map (fun l => (laneOf s (4 * g + l)).2)

theorem Emits.centroidGroup (hJ : J.Safe) (he : J.esize = 4) {g : Nat}
    (hk : ∀ k ∈ List.range' (4 * g) 4, k < J.start.regs.inCount.toNat → J.Lane k) :
    Emits J (centroidGroup J.start.params J.start.regs g) b b
      ((List.range' (4 * g) 4).flatMap (laneReads J.start)) () ((groupWords J.start g).map wordBytes) := by
  refine ((Emits.mapRange fun k hmem => .centroidLane hJ (hk k hmem)).after fun _ =>
    (Emits.appendWords _ he).bind (.appendWords _ he)).cast (fun a ha => by simpa using ha) rfl ?_
  rw [← List.map_append]
  rfl

/-- The first `n` groups. -/
theorem Emits.centroidGroups (hJ : J.Safe) (he : J.esize = 4) {n : Nat}
    (hk : ∀ k, k < 4 * n → k < J.start.regs.inCount.toNat → J.Lane k) :
    Emits J (Cmd.forRange 0 n (Machine.centroidGroup J.start.params J.start.regs)) b b
      ((List.range' 0 n).flatMap fun g => (List.range' (4 * g) 4).flatMap (laneReads J.start)) ()
      ((centroidWords J.start n).map wordBytes) := by
  refine (Emits.forRange fun g hg => .centroidGroup hJ he fun k hmem => hk k ?_).cast (fun _ ha => ha) rfl ?_
  · simp only [List.mem_range'_1] at hg hmem
    omega
  · rw [centroidWords, List.map_flatMap, ← List.range_eq_range']
    rfl

theorem centroid_emits {s : State} (hJ : J.Safe) (hs : J.start = s) (he : J.esize = 4)
    (hk : ∀ k, k < s.regs.inCount.toNat → J.Lane k) :
    Emits J (work .centroid s) [] [] (centroidReads s s.regs.inCount.toNat) ()
      ((centroidWords s (groups s.regs)).map wordBytes) := by
  subst hs
  refine (Emits.centroidGroups hJ he fun k _ => hk k).cast (fun a ha => ?_) rfl rfl
  obtain ⟨k, hk, ha⟩ : ∃ k, k < J.start.regs.inCount.toNat ∧ a ∈ inputAddrs J.start.regs [k] ++ diskOf J.start k := by
    rcases List.mem_append.mp ha with ha | ha
    · obtain ⟨k, hk, ha⟩ := mem_inputAddrs_singleton.mp ha
      exact ⟨k, List.mem_range.mp hk, List.mem_append_left _ ha⟩
    · obtain ⟨k, hk, ha⟩ := List.mem_flatMap.mp ha
      exact ⟨k, List.mem_range.mp hk, List.mem_append_right _ ha⟩
  refine List.mem_flatMap.mpr ⟨k / 4, by simp only [List.mem_range'_1]; omega, List.mem_flatMap.mpr
    ⟨k, by simp only [List.mem_range'_1]; omega, ?_⟩⟩
  rwa [laneReads, if_pos hk]

/-! ## DESCRIBE -/

/-- Keypoint k and the pixels of its tests are read by the job, and where it has no descriptor it can stop it. -/
structure Job.Described (J : Job) (k : Nat) : Prop extends J.Keypoint k where
  bin : 30 ≤ (kpOrient (inputWord J.start k)).toNat → J.bad
  probes : AllAdmitted J.start.params (inputAddrs J.start.regs [k]) → (kpOrient (inputWord J.start k)).toNat < 30 →
    ∀ a : Nat, (a : Int) ∈ probesOf J.start k → Covers J.reads a
  probeStop : Describable J.start k → ∀ a ∈ probesOf J.start k, J.stop a

/-- The words of keypoint k's descriptor. -/
def descriptorOf (s : State) (k : Nat) : List Word :=
  (List.range s.regs.descN.toNat).map fun w => wordOfBits ((List.range 32).map fun j => testOf s k (32 * w + j))

/-- The two pixel addresses of test j of keypoint k, as a list. -/
def probePair (s : State) (k j : Nat) : List Int := [(probeAddrs s k j).1, (probeAddrs s k j).2]

theorem Emits.describeWord {k w : Nat} (hJ : J.Safe)
    (hreads : ∀ j, j < 32 → ∀ a : Nat, (a : Int) ∈ probePair J.start k (32 * w + j) → Covers J.reads a)
    (hstop : ∀ j, j < 32 → ∀ a ∈ probePair J.start k (32 * w + j), J.stop a) :
    Emits J (describeWord J.start.params J.start.regs (kpOrient (inputWord J.start k)).toNat
        (kpX (inputWord J.start k)).toNat (kpY (inputWord J.start k)).toNat w) b b
      ((List.range' (32 * w) 32).flatMap (probePair J.start k))
      (wordOfBits ((List.range 32).map fun j => testOf J.start k (32 * w + j))) [] := by
  have htest (j : Nat) (hj : j ∈ List.range' (32 * w) 32) :
      Emits J (briefTest J.start.params J.start.regs (kpOrient (inputWord J.start k)).toNat
        (kpX (inputWord J.start k)).toNat (kpY (inputWord J.start k)).toNat j) b b (probePair J.start k j ++ [])
        (testOf J.start k j) [] := by
    rw [List.mem_range'_1] at hj
    obtain ⟨i, hi, rfl⟩ : ∃ i, i < 32 ∧ j = 32 * w + i := ⟨j - 32 * w, by omega, by omega⟩
    refine (Emits.readUnordered (as := probePair J.start k (32 * w + i)) hJ (fun hadm a ha => hreads i hi _ ?_)
      (hstop i hi)).after fun _ => .pure
    rwa [Int.toNat_of_nonneg (admitted_bounds (hadm a ha)).1]
  refine ((Emits.mapRange htest).after (f := fun bits => Cmd.pure (wordOfBits bits)) fun _ => .pure).cast
    (fun a ha => by rwa [List.append_nil]) ?_ rfl
  rw [List.range'_eq_map_range, List.map_map]
  rfl

theorem probePair_subset {s : State} {k j : Nat} (hj : j < 32 * s.regs.descN.toNat) {a : Int}
    (ha : a ∈ probePair s k j) : a ∈ probesOf s k :=
  List.mem_flatMap.mpr ⟨j, List.mem_range.mpr hj, ha⟩

theorem Emits.describeKeypoint (hJ : J.Safe) (he : J.esize = 4) {k : Nat} (hk : J.Described k) :
    Emits J (describeKeypoint J.start.params J.start.regs k) b b
      (inputAddrs J.start.regs [k] ++ probesOf J.start k) () ((descriptorOf J.start k).map wordBytes) := by
  refine hk.toKeypoint.emits hJ fun hadm hmargin => ?_
  by_cases hbin : 30 ≤ (kpOrient (inputWord J.start k)).toNat
  · rw [if_pos hbin]
    exact .raise (hk.bin hbin) (.inr rfl)
  · rw [if_neg hbin]
    have hbin : (kpOrient (inputWord J.start k)).toNat < 30 := Nat.not_le.mp hbin
    have hword (w : Nat) (hw : w ∈ List.range' 0 J.start.regs.descN.toNat) := Emits.describeWord (b := b) hJ
      (k := k) (w := w)
      (fun j hj a ha => hk.probes hadm hbin a (probePair_subset (by rw [List.mem_range'_1] at hw; omega) ha))
      (fun j hj a ha => hk.probeStop ⟨hmargin, hbin⟩ a
        (probePair_subset (by rw [List.mem_range'_1] at hw; omega) ha))
    refine ((Emits.mapRange hword).after fun _ => .appendWords _ he).cast (fun a ha => ?_) rfl ?_
    · obtain ⟨j, hj, ha⟩ := List.mem_flatMap.mp ha
      rw [List.mem_range] at hj
      refine List.mem_append_left _ (List.mem_flatMap.mpr ⟨j / 32, by rw [List.mem_range'_1]; omega, ?_⟩)
      exact List.mem_flatMap.mpr ⟨j, by rw [List.mem_range'_1]; omega, ha⟩
    · rw [descriptorOf, ← List.range_eq_range']

theorem describe_emits {s : State} (hJ : J.Safe) (hs : J.start = s) (he : J.esize = 4)
    (hk : ∀ k, k < s.regs.inCount.toNat → J.Described k) :
    Emits J (work .describe s) [] [] (describeReads s s.regs.inCount.toNat) ()
      ((describeWords s s.regs.inCount.toNat).map wordBytes) := by
  subst hs
  refine (Emits.forRange fun k hmem => .describeKeypoint hJ he (hk k (by simpa using hmem))).cast
    (fun a ha => ?_) rfl ?_
  · rcases List.mem_append.mp ha with ha | ha
    · obtain ⟨k, hk, ha⟩ := mem_inputAddrs_singleton.mp ha
      exact List.mem_flatMap.mpr ⟨k, by simpa using hk, List.mem_append_left _ ha⟩
    · obtain ⟨k, hk, ha⟩ := List.mem_flatMap.mp ha
      exact List.mem_flatMap.mpr ⟨k, by simpa using hk, List.mem_append_right _ ha⟩
  · rw [describeWords, List.map_flatMap, ← List.range_eq_range']
    rfl

end Sys2Proof.Proofs
end

section
/-! CENTROID comes to a keypoint whose disk may meet its output: either it stops on the way, or the disk is in its read
footprint (44_orb_centroid R224). From it: footprints that overlap fault. -/

namespace Sys2Proof.Proofs

open Sys2Proof.Machine Sys2Proof.Safety

variable {J : Job} {b b' : List Bucket} {α β : Type}

/-! ## A part that declares some addresses, if it comes to it -/

/-- From every run of the job, a part stops with some first elements of `out` appended, or the addresses `as` come to be
in the read footprint. -/
def Reaches (J : Job) (x : Cmd α) (b : List Bucket) (as : List Int) (out : List (List Byte)) : Prop :=
  ∀ es c, (es ++ out).length ≤ J.total → After J es c → c.buckets = b →
    (∃ e info c' part, x c = .err e info c' ∧ part <+: out ∧ After J (es ++ part) c' ∧
        Stops J (es ++ out).length (es ++ part).length e info) ∨
      ∀ a : Nat, (a : Int) ∈ as → Covers (x c).run.reads a

theorem Emits.reaches {x : Cmd α} {f : α → Cmd β} {rd as : List Int} {v : α} {out out' : List (List Byte)}
    (hx : Emits J x b b' rd v out) (hf : AllAdmitted J.start.params rd → Reaches J (f v) b' as out') :
    Reaches J (Cmd.bind x f) b as (out ++ out') := by
  intro es c hlen hes hb
  simp only [List.length_append] at hlen
  have h := hx es c (by simp only [List.length_append]; omega) hes hb
  cases hxc : x c with
  | ok _ c' =>
    rw [hxc] at h
    obtain ⟨hes', hb', hrd⟩ | _ := h
    rw [Cmd.bind_ok hxc]
    rcases hf hrd (es ++ out) c' (by simp only [List.length_append]; omega) hes' hb' with
      ⟨e, info, c'', part, hc'', hpart, hes'', hstop⟩ | hreads
    · simp only [List.append_assoc] at hes'' hstop
      exact .inl ⟨e, info, c'', out ++ part, hc'', (List.prefix_append_right_inj out).mpr hpart, hes'', hstop⟩
    · exact .inr hreads
  | err e info c' =>
    rw [hxc] at h
    obtain _ | ⟨hpart, hes', hstop⟩ := h
    refine .inl ⟨e, info, c', _, Cmd.bind_err hxc, hpart.trans (List.prefix_append out out'), hes', hstop.mono ?_⟩
    simp only [List.length_append]
    omega

/-- What follows takes no address out of the read footprint. -/
theorem Reaches.bind {x : Cmd α} {f : α → Cmd β} {as : List Int} {out : List (List Byte)} (hx : Reaches J x b as out)
    (hf : ∀ v, Cmd.Keeps Extends (f v)) : Reaches J (Cmd.bind x f) b as out := by
  intro es c hlen hes hb
  rcases hx es c hlen hes hb with ⟨e, info, c', part, hc', hrest⟩ | hreads
  · exact .inl ⟨e, info, c', part, Cmd.bind_err hc', hrest⟩
  · refine .inr fun a ha => ?_
    cases hxc : x c with
    | ok v c' =>
      rw [Cmd.bind_ok hxc]
      have := hreads a ha
      rw [hxc] at this
      exact (hf v c').reads a this
    | err e info c' =>
      rw [Cmd.bind_err hxc]
      have := hreads a ha
      rwa [hxc] at this

theorem Reaches.declare {as : List Int} : Reaches J (declareFootprint (byteSpans as) []) b as [] :=
  fun _ _ _ _ _ => .inr fun _ ha => covers_append.mpr (.inl (covers_byteSpans.mpr ha))

theorem Reaches.raise {e : ErrCode} {info : Word} {as : List Int} (hbad : J.bad) (he : e = .kpBounds ∨ e = .badBin) :
    Reaches J (Cmd.raise e info : Cmd α) b as [] :=
  fun _ c _ hes _ => .inl ⟨e, info, c, [], rfl, List.prefix_rfl, by rwa [List.append_nil], .input hbad he⟩

/-! ## The keypoint that is come to -/

theorem centroidLane_reaches (hJ : J.Safe) {k : Nat} (hk : k < J.start.regs.inCount.toNat) (hkey : J.Keypoint k) :
    Reaches J (Machine.centroidLane J.start.params J.start.regs k) b (diskOf J.start k) [] := by
  unfold Machine.centroidLane boundedKeypoint
  rw [if_pos hk, bind_assoc]
  refine Emits.reaches (out' := []) (hkey.toReadsWord.emits hJ) fun _ => ?_
  by_cases hmargin : InMargin J.start k
  · rw [if_pos ((inMargin_iff J.start k).mpr hmargin), pure_bind]
    exact Reaches.declare.bind fun _ => keeps_bind tame_extends (keeps_readUnordered tame_extends _) fun _ =>
      keeps_pure tame_extends _
  · rw [if_neg fun h => hmargin ((inMargin_iff J.start k).mp h)]
    exact (Reaches.raise (hkey.margin hmargin) (.inl rfl)).bind fun _ =>
      keeps_bind tame_extends (declare_extends _ _) fun _ =>
        keeps_bind tame_extends (keeps_readUnordered tame_extends _) fun _ => keeps_pure tame_extends _

theorem mapRange_add (f : Nat → Cmd α) (lo n m : Nat) :
    Cmd.mapRange lo (n + m) f = Cmd.bind (Cmd.mapRange lo n f) fun as =>
      Cmd.bind (Cmd.mapRange (lo + n) m f) fun bs => Cmd.pure (as ++ bs) := by
  induction n generalizing lo with
  | zero =>
    rw [Nat.zero_add]
    funext c
    simp only [Cmd.mapRange, Cmd.bind, Cmd.pure, List.nil_append, Nat.add_zero]
    cases Cmd.mapRange lo m f c <;> rfl
  | succ n ih =>
    rw [Nat.succ_add]
    simp only [Cmd.mapRange, ih, bind_assoc, pure_bind, List.cons_append]
    rw [Nat.add_assoc lo 1 n, Nat.add_comm 1 n]

theorem forRange_add (f : Nat → Cmd Unit) (lo n m : Nat) :
    Cmd.forRange lo (n + m) f = Cmd.bind (Cmd.forRange lo n f) fun _ => Cmd.forRange (lo + n) m f := by
  rw [forRange_eq_forList, forRange_eq_forList, forRange_eq_forList, ← forList_append, List.range'_append_1]

theorem centroidGroup_reaches (hJ : J.Safe) {k : Nat} (hk : k < J.start.regs.inCount.toNat)
    (hlane : ∀ j, j < k → J.Lane j) (hkey : J.Keypoint k) :
    Reaches J (Machine.centroidGroup J.start.params J.start.regs (k / 4)) b (diskOf J.start k) [] := by
  obtain ⟨m, hm⟩ : ∃ m, 4 = k % 4 + (m + 1) := ⟨4 - k % 4 - 1, by omega⟩
  have hat : 4 * (k / 4) + k % 4 = k := Nat.div_add_mod k 4
  unfold Machine.centroidGroup
  refine Reaches.bind ?_ fun lanes => keeps_appendGroup tame_extends lanes
  generalize hlo : 4 * (k / 4) = lo at hat
  rw [hm, mapRange_add, hat]
  refine Emits.reaches (out' := []) (.mapRange fun j hj => .centroidLane hJ fun _ => hlane j ?_) fun _ => ?_
  · rw [List.mem_range'_1] at hj
    omega
  · have hlanes (n : Nat) : Cmd.Keeps Extends (Machine.centroidLane J.start.params J.start.regs n) :=
      keeps_centroidLane tame_extends declare_extends _ _ n
    exact ((centroidLane_reaches hJ hk hkey).bind fun _ => keeps_bind tame_extends
      (.mapRange tame_extends.refl tame_extends.trans hlanes _ _) fun _ => keeps_pure tame_extends _).bind
        fun _ => keeps_pure tame_extends _

/-- CENTROID with the lanes before keypoint k like any others: it stops, or it declares the disk of keypoint k. -/
theorem centroid_reaches {s : State} (hJ : J.Safe) (hs : J.start = s) (he : J.esize = 4) {k : Nat}
    (hk : k < s.regs.inCount.toNat) (hlane : ∀ j, j < k → J.Lane j) (hkey : J.Keypoint k) :
    Reaches J (work .centroid s) b (diskOf s k) ((centroidWords s (k / 4)).map wordBytes) := by
  subst hs
  obtain ⟨m, hm⟩ : ∃ m, (J.start.regs.inCount.toNat + 3) / 4 = k / 4 + (m + 1) :=
    ⟨(J.start.regs.inCount.toNat + 3) / 4 - k / 4 - 1, by omega⟩
  dsimp only [work]
  rw [hm, forRange_add, Nat.zero_add, Cmd.forRange_succ]
  rw [← List.append_nil (List.map wordBytes _)]
  refine (Emits.centroidGroups hJ he fun j hj _ => hlane j (by omega)).reaches fun _ => ?_
  exact (centroidGroup_reaches hJ hk hlane hkey).bind fun _ =>
    keeps_forRange tame_extends (keeps_centroidGroup tame_extends declare_extends _ _) _ _

end Sys2Proof.Proofs
end

section
/-! The pixels and marks that a command asks for lie inside the raster, for admissible parameters (40_fast_detect R126,
41_harris_score R148, 42_nms_extract R166, 44_orb_centroid R223, 46_orb_describe R255). -/

namespace Sys2Proof.Proofs

open Sys2Proof.Machine Sys2Proof.Safety

/-! ## Checks passed -/

theorem not_bad_of_legal {i : Instr} {s : State} {k : Check} (h : Legal i s) (hk : k ∈ paramChecks s.params s.regs i) :
    k.1 = false := firstFailed_eq_none.mp h k hk

theorem room_of_legal {i : Instr} {e : Nat} {s : State} (hi : elementSize i = some e) (h : Legal i s) :
    s.regs.outCount.toNat ≤ s.regs.outCap.toNat := by
  have hmem : outCountCheck s.regs ∈ paramChecks s.params s.regs i := by
    cases i with
    | extract | extractBkt | gridIndex | gridQuery | centroid | atan2 | describe => simp [paramChecks]
    | detect | score | gridBucket | gridReduce => cases hi
  exact Nat.not_lt.mp (of_decide_eq_false (not_bad_of_legal h hmem))

theorem logBkt_of_legal {s : State} (h : Legal .extractBkt s) : 1 ≤ s.regs.logBkt.toNat := by
  have := of_decide_eq_false (not_bad_of_legal h
    (k := (decide (s.regs.logBkt.toNat = 0 ∨ 12 < s.regs.logBkt.toNat), 0x030)) (by simp [paramChecks, bucketChecks]))
  omega

/-! ## Admissible parameters -/

theorem getD_of_forall_mem {α : Type} {P : α → Prop} {l : List α} {d : α} (hl : ∀ x ∈ l, P x) (hd : P d) (n : Nat) :
    P (l.getD n d) := by
  rcases Nat.lt_or_ge n l.length with h | h
  · rw [List.getD_eq_getElem _ _ h]
    exact hl _ (List.getElem_mem h)
  · rwa [List.getD_eq_default _ _ h]

theorem between_iff {lo hi v : Int} : between lo hi v = true ↔ lo ≤ v ∧ v ≤ hi := by
  simp [between]

/-- The disk lies in [-15, 15]². -/
theorem diskOffsets_bounds {p : Params} (h : p.wf = true) {d : Int × Int} (hd : d ∈ diskOffsets p.diskUmax) :
    (-15 ≤ d.1 ∧ d.1 ≤ 15) ∧ -15 ≤ d.2 ∧ d.2 ≤ 15 := by
  have humax (n : Nat) : p.diskUmax.getD n 0 ≤ 15 := by
    refine getD_of_forall_mem (P := (· ≤ 15)) (fun u hu => ?_) (Nat.zero_le 15) n
    simp only [Params.wf, diskWf, Bool.and_eq_true, List.all_eq_true, decide_eq_true_eq] at h
    obtain ⟨⟨_, ⟨_, hall⟩, _⟩, _⟩ := h
    exact hall u hu
  simp only [diskOffsets, diskRow, List.mem_flatMap, List.mem_map, List.mem_range'_1] at hd
  obtain ⟨j, hj, i, hi, rfl⟩ := hd
  have := humax ((j : Int) - 15).natAbs
  dsimp only
  omega

/-- The tests' offsets lie in [-15, 15]. -/
theorem probeAt_bounds {p : Params} (h : p.wf = true) (bin k : Nat) :
    ((-15 ≤ (probeAt p bin k).a ∧ (probeAt p bin k).a ≤ 15) ∧ -15 ≤ (probeAt p bin k).b ∧ (probeAt p bin k).b ≤ 15) ∧
      (-15 ≤ (probeAt p bin k).c ∧ (probeAt p bin k).c ≤ 15) ∧
        -15 ≤ (probeAt p bin k).d ∧ (probeAt p bin k).d ≤ 15 := by
  have hprobe : probeWf (probeAt p bin k) = true := by
    simp only [Params.wf, romWf, Bool.and_eq_true, List.all_eq_true, decide_eq_true_eq] at h
    obtain ⟨_, _, hrows⟩ := h
    refine getD_of_forall_mem (P := fun q => probeWf q = true) (fun q hq => ?_) (by decide) k
    exact getD_of_forall_mem (P := fun row => ∀ q ∈ row, probeWf q = true)
      (fun row hrow q hq => (hrows row hrow).2 q hq) (by simp) bin q hq
  simp only [probeWf, Bool.and_eq_true, between_iff] at hprobe
  tauto

theorem ring_bounds {p : Params} (h : p.wf = true) {d : Int × Int} (hd : d ∈ p.ring) :
    (-3 ≤ d.1 ∧ d.1 ≤ 3) ∧ -3 ≤ d.2 ∧ d.2 ≤ 3 := by
  simp only [Params.wf, ringWf, Bool.and_eq_true, List.all_eq_true] at h
  obtain ⟨⟨⟨⟨_, _, hall⟩, _⟩, _⟩, _⟩ := h
  have := hall d hd
  simpa only [between_iff] using this

theorem harrisWinLo_bounds {p : Params} (h : p.wf = true) : -3 ≤ p.harrisWinLo ∧ p.harrisWinLo ≤ -2 := by
  simp only [Params.wf, Bool.and_eq_true, Bool.or_eq_true, decide_eq_true_eq] at h
  obtain ⟨⟨⟨_, hlo⟩, _⟩, _⟩ := h
  omega

/-! ## Inside the raster -/

theorem isPixel_pixAddr {r : ParamRegs} {x y : Int} (hx : 0 ≤ x) (hx' : x < r.width.toNat) (hy : 0 ≤ y)
    (hy' : y < r.height.toNat) : IsPixel r (pixAddr r x y) := by
  lift x to Nat using hx
  lift y to Nat using hy
  exact ⟨x, y, by omega, by omega, rfl⟩

theorem isMark_markAddr {r : ParamRegs} {x y : Int} (hx : 0 ≤ x) (hx' : x < r.width.toNat) (hy : 0 ≤ y)
    (hy' : y < r.height.toNat) : IsMark r (markAddr r x y) := by
  lift x to Nat using hx
  lift y to Nat using hy
  exact ⟨x, y, by omega, by omega, rfl⟩

theorem isPixel_of_mem_diskOf {s : State} {k : Nat} {a : Int} (hwf : s.params.wf = true) (hm : InMargin s k)
    (ha : a ∈ diskOf s k) : IsPixel s.regs a := by
  obtain ⟨d, hd, rfl⟩ := List.mem_map.mp ha
  obtain ⟨hdx, hdy⟩ := diskOffsets_bounds hwf hd
  obtain ⟨hx, hx', hy, hy'⟩ := hm
  exact isPixel_pixAddr (by omega) (by omega) (by omega) (by omega)

theorem isPixel_of_mem_probesOf {s : State} {k : Nat} {a : Int} (hwf : s.params.wf = true) (hm : InMargin s k)
    (ha : a ∈ probesOf s k) : IsPixel s.regs a := by
  obtain ⟨j, _, ha⟩ := List.mem_flatMap.mp ha
  obtain ⟨⟨ha', hb⟩, hc, hd⟩ := probeAt_bounds hwf (kpOrient (inputWord s k)).toNat j
  obtain ⟨hx, hx', hy, hy'⟩ := hm
  rcases List.mem_cons.mp ha with rfl | ha
  · exact isPixel_pixAddr (by omega) (by omega) (by omega) (by omega)
  · rw [List.mem_singleton.mp ha]
    exact isPixel_pixAddr (by omega) (by omega) (by omega) (by omega)

/-- The windows of the walk lie inside the raster: their blocks keep the border of 2. -/
theorem isMark_of_mem_walkReads {r : ParamRegs} {a : Int} (hb : 2 ≤ r.border.toNat) (ha : a ∈ walkReads r) :
    IsMark r a := by
  obtain ⟨c, hc, ha⟩ := List.mem_flatMap.mp ha
  obtain ⟨ky, kx, hky, hkx, rfl⟩ := mem_blockOrigins.mp hc
  obtain ⟨j, i, hj, hi, rfl⟩ := mem_windowAddrs.mp ha
  simp only [blockCount, innerExtent] at hky hkx
  exact isMark_markAddr (by omega) (by omega) (by omega) (by omega)

theorem isMark_of_mem_regionCells {r : ParamRegs} {c : Nat × Nat} (hc : c ∈ regionCells r) :
    IsMark r (markAddr r c.1 c.2) := by
  obtain ⟨hx, hy⟩ := mem_regionCells.mp hc
  simp only [innerExtent] at hx hy
  exact isMark_markAddr (by omega) (by omega) (by omega) (by omega)

theorem isPixel_of_mem_ringAddrs {p : Params} {r : ParamRegs} {c : Nat × Nat} {a : Int} (hwf : p.wf = true)
    (hb : 3 ≤ r.border.toNat) (hc : c ∈ regionCells r) (ha : a ∈ ringAddrs p r c.1 c.2) : IsPixel r a := by
  obtain ⟨hx, hy⟩ := mem_regionCells.mp hc
  simp only [innerExtent] at hx hy
  rcases List.mem_cons.mp ha with rfl | ha
  · exact isPixel_pixAddr (by omega) (by omega) (by omega) (by omega)
  · obtain ⟨d, hd, rfl⟩ := List.mem_map.mp ha
    obtain ⟨hdx, hdy⟩ := ring_bounds hwf hd
    exact isPixel_pixAddr (by omega) (by omega) (by omega) (by omega)

theorem isPixel_of_mem_patchAddrs {p : Params} {r : ParamRegs} {c : Nat × Nat} {a : Int} (hwf : p.wf = true)
    (hb : 4 ≤ r.border.toNat) (hc : c ∈ regionCells r) (ha : a ∈ patchAddrs p r c.1 c.2) : IsPixel r a := by
  obtain ⟨hx, hy⟩ := mem_regionCells.mp hc
  have hlo := harrisWinLo_bounds hwf
  simp only [innerExtent] at hx hy
  simp only [patchAddrs, List.mem_flatMap, List.mem_map, List.mem_range'_1] at ha
  obtain ⟨j, hj, i, hi, rfl⟩ := ha
  exact isPixel_pixAddr (by omega) (by omega) (by omega) (by omega)

end Sys2Proof.Proofs
end

section
/-! The job of each command that appends, or that walks the marks: what its work does towards it, and the run it begins
with. -/

namespace Sys2Proof.Proofs

open Sys2Proof.Machine Sys2Proof.Safety

/-! ## The state that the work begins with -/

variable {i : Instr} {s : State} {joined asked : List Int} {bad : Prop}

@[simp] theorem enteredState_regs (i : Instr) (s : State) : (enteredState i s).regs = s.regs := by cases i <;> rfl
@[simp] theorem enteredState_params (i : Instr) (s : State) : (enteredState i s).params = s.params := by cases i <;> rfl
@[simp] theorem enteredState_mem (i : Instr) (s : State) : (enteredState i s).mem = s.mem := by cases i <;> rfl
@[simp] theorem enteredState_result (i : Instr) (s : State) : (enteredState i s).result = s.result := by cases i <;> rfl

/-! ## The elements -/

/-- The words that a command appends which nothing stops, where its elements are words. -/
def outputWords (s : State) : Instr → List Word
  | .extract => wordsOf (survivorsIn s.params s.regs s.mem)
  | .extractBkt => flatten (fillGrid s.regs (survivorsIn s.params s.regs s.mem))
  | .gridIndex => gridEntries s.grid
  | .gridQuery => visitedHits s
  | .centroid => centroidWords s (groups s.regs)
  | .describe => describeWords s s.regs.inCount.toNat
  | .detect | .score | .gridBucket | .gridReduce | .atan2 => []

/-- The elements that a command appends which nothing stops. -/
def outputs (s : State) (i : Instr) : List (List Byte) :=
  if i = .atan2 then (List.range' 0 s.regs.inCount.toNat).map fun k => [binOf s k]
  else (outputWords s i).map wordBytes

theorem outputs_words (hi : i ≠ .atan2) : outputs s i = (outputWords s i).map wordBytes := if_neg hi

theorem length_centroidWords (s : State) (n : Nat) : (centroidWords s n).length = 8 * n := by
  simp [centroidWords, List.length_flatMap, Nat.mul_comm]

theorem length_describeWords (s : State) (n : Nat) : (describeWords s n).length = s.regs.descN.toNat * n := by
  simp [describeWords, List.length_flatMap, Nat.mul_comm]

/-- A command outside the grid family counts its elements in its write footprint. -/
theorem length_outputs {i : Instr} {s : State} (hi : isGridCommand i = false) :
    (outputs s i).length = declaredOutput s i := by
  cases i with
  | extract => simp [outputs, outputWords, declaredOutput, wordsOf]
  | extractBkt => simp [outputs, outputWords, declaredOutput, length_flatten]
  | centroid => simp [outputs, outputWords, declaredOutput, length_centroidWords]
  | atan2 => simp [outputs, declaredOutput]
  | describe => simp [outputs, outputWords, declaredOutput, length_describeWords]
  | detect | score => rfl
  | gridBucket | gridReduce | gridIndex | gridQuery => cases hi

/-! ## The job -/

/-- The commands that write marks, and append nothing. -/
def writesMarks : Instr → Bool
  | .detect | .score => true
  | .extract | .extractBkt | .gridBucket | .gridReduce | .gridIndex | .gridQuery | .centroid | .atan2
  | .describe => false

/-- The job of a command: `joined` are the addresses it reads beside those it declares when it begins, `asked` are those
at which a refused read can stop it, where it is one of those that BUS can name, and `bad` says whether an input can
stop it. -/
def jobOf (i : Instr) (s : State) (joined asked : List Int) (bad : Prop) : Job where
  start := enteredState i s
  esize := (elementSize i).getD 1
  total := (outputs s i).length
  reads := declaredReads s i ++ byteSpans joined
  stop a := a ∈ asked ∧ (s.params.wf = true → MayStopAt s.params s.regs a i)
  bad := bad

@[simp] theorem jobOf_regs : (jobOf i s joined asked bad).start.regs = s.regs := enteredState_regs i s
@[simp] theorem jobOf_params : (jobOf i s joined asked bad).start.params = s.params := enteredState_params i s
@[simp] theorem jobOf_mem : (jobOf i s joined asked bad).start.mem = s.mem := enteredState_mem i s
@[simp] theorem jobOf_esize : (jobOf i s joined asked bad).esize = (elementSize i).getD 1 := rfl
@[simp] theorem jobOf_total : (jobOf i s joined asked bad).total = (outputs s i).length := rfl

/-- What a command reads beside what it declares when it begins: the disks of CENTROID's keypoints, which it declares one
by one, and the marks of GRID_BUCKET, which has no write footprint that they could meet. -/
def joinedReads (s : State) : Instr → List Int
  | .centroid => (List.range s.regs.inCount.toNat).flatMap (diskOf s)
  | .gridBucket => walkReads s.regs
  | .detect | .score | .extract | .extractBkt | .gridReduce | .gridIndex | .gridQuery | .atan2 | .describe => []

theorem covers_reads_of_declared {a : Nat} (h : Covers (declaredReads s i) a) :
    Covers (jobOf i s joined asked bad).reads a := covers_append.mpr (.inl h)

theorem covers_writes_of_declared (hi : writesMarks i = false) {a : Nat} (h : Covers (declaredWrites s i) a) :
    Covers [outSpan s.regs ((elementSize i).getD 1) (outputs s i).length] a := by
  cases i with
  | extract | extractBkt | centroid | atan2 | describe =>
    rw [length_outputs rfl]
    exact h
  | gridBucket | gridReduce | gridIndex | gridQuery => exact absurd h (covers_nil a)
  | detect | score => cases hi

theorem room_of_output (hlegal : Legal i s) (h : 0 < (outputs s i).length) :
    s.regs.outCount.toNat ≤ s.regs.outCap.toNat := by
  cases i with
  | extract | extractBkt | gridIndex | gridQuery | centroid | atan2 | describe => exact room_of_legal rfl hlegal
  | detect | score | gridBucket | gridReduce => cases h

/-- A run of a job that has appended nothing yet. -/
theorem After.start {J : Job} {c : Run} (hst : c.st = J.start)
    (hroom : 0 < J.total → J.start.regs.outCount.toNat ≤ J.start.regs.outCap.toNat)
    (hreads : ∀ a, Covers c.reads a → Covers J.reads a)
    (hwrites : ∀ a, Covers c.writes a → Covers [outSpan J.start.regs J.esize J.total] a) : After J [] c where
  frame := by simp [hst]
  size := fun _ h => by cases h
  room := hroom
  admitted := fun a ha => by simp [outAddrs, bytesFrom] at ha
  reads := hreads
  writes := hwrites

theorem after_entered (hi : writesMarks i = false) (hlegal : Legal i s) :
    After (jobOf i s joined asked bad) [] (entered i s) := by
  refine .start rfl (fun hpos => ?_) (fun _ h => covers_reads_of_declared h) (fun _ h => ?_) <;> rw [jobOf_regs]
  · exact room_of_output hlegal hpos
  · exact covers_writes_of_declared hi h

/-- The ways a command can stop, told by its state. -/
theorem stops_jobOf {n m : Nat} {e : ErrCode} {info : Word} (h : Stops (jobOf i s joined asked bad) n m e info) :
    (e = .bus ∧ ∃ a, info = busInfo a ∧ admitted s.params a = false ∧ a ∈ asked ∧
        (s.params.wf = true → MayStopAt s.params s.regs a i)) ∨
      (e = .bus ∧ m < n ∧ s.regs.outCount.toNat + m < s.regs.outCap.toNat ∧ ∃ a, info = busInfo a ∧
        admitted s.params a = false ∧ LowestOfElement s.params s.regs.outBase.toNat ((elementSize i).getD 1)
          (s.regs.outCount.toNat + m) a) ∨
      (e = .outFull ∧ info = s.regs.outCap ∧ m < n ∧ s.regs.outCount.toNat + m = s.regs.outCap.toNat) ∨
      bad ∧ (e = .kpBounds ∨ e = .badBin) := by
  cases h with
  | read hstop href => exact .inl ⟨rfl, _, rfl, by rwa [jobOf_params] at href, hstop⟩
  | write hroom hm hlow href =>
    rw [jobOf_regs, jobOf_params] at hlow
    rw [jobOf_regs] at hroom
    rw [jobOf_params] at href
    exact .inr (.inl ⟨rfl, hm, hroom, _, rfl, href, hlow⟩)
  | full hm hcap =>
    rw [jobOf_regs] at hcap
    exact .inr (.inr (.inl ⟨rfl, by rw [jobOf_regs], hm, hcap⟩))
  | input hbad he => exact .inr (.inr (.inr ⟨hbad, he⟩))

theorem mem_outAddrs_of_lowest {p : Params} {r : ParamRegs} {e n m : Nat} {a : Int} (hm : m < n)
    (h : LowestOfElement p r.outBase.toNat e (r.outCount.toNat + m) a) : a ∈ outAddrs r e n := by
  obtain ⟨j, hj, rfl, _⟩ := h
  have hle := Nat.mul_le_mul_left e (Nat.succ_le_of_lt hm)
  rw [Nat.mul_succ] at hle
  refine mem_bytesFrom.mpr ?_
  rw [outStart, Nat.mul_add]
  omega

/-! ## What the work of each command does -/

theorem walksMarks_jobOf (hi : walks i = true) (hlegal : Legal i s) (hasked : ∀ a ∈ walkReads s.regs, a ∈ asked) :
    (jobOf i s (joinedReads s i) asked bad).Walks (blockOrigins s.regs) := by
  have hb := border_of_legal hi hlegal
  have hwindow {c : Nat × Nat} (hc : c ∈ blockOrigins s.regs) {a : Int} (ha : a ∈ windowAddrs s.regs c.1 c.2) :
      a ∈ walkReads s.regs := List.mem_flatMap.mpr ⟨c, hc, ha⟩
  refine ⟨fun c hc a ha => ?_, fun c hc a ha => ?_⟩ <;> rw [jobOf_regs] at ha
  · obtain ⟨ky, kx, _, _, rfl⟩ := mem_blockOrigins.mp hc
    obtain ⟨j, l, _, _, he⟩ := mem_windowAddrs.mp ha
    rw [markAddr_window (by omega) (by omega)] at he
    have hwalk : (a.toNat : Int) ∈ walkReads s.regs := by
      rw [he, Int.toNat_natCast, ← he]
      exact hwindow hc ha
    cases i with
    | extract | extractBkt => exact covers_reads_of_declared ((covers_walkReadSpans (by omega)).mpr hwalk)
    | gridBucket => exact covers_append.mpr (.inr (covers_byteSpans.mpr hwalk))
    | detect | score | gridReduce | gridIndex | gridQuery | centroid | atan2 | describe => cases hi
  · refine ⟨hasked a (hwindow hc ha), fun _ => ?_⟩
    have hmark := isMark_of_mem_walkReads hb (hwindow hc ha)
    cases i with
    | extract | extractBkt => exact .inl hmark
    | gridBucket => exact hmark
    | detect | score | gridReduce | gridIndex | gridQuery | centroid | atan2 | describe => cases hi

/-- The commands that read words of the input. -/
def readsInput (s : State) : Instr → List Nat
  | .centroid | .describe => List.range s.regs.inCount.toNat
  | .atan2 => atan2Inputs s.regs
  | .detect | .score | .extract | .extractBkt | .gridBucket | .gridReduce | .gridIndex | .gridQuery => []

theorem readsWord_jobOf {k : Nat} (hk : k ∈ readsInput s i) (hasked : ∀ a ∈ inputAddrs s.regs [k], a ∈ asked) :
    (jobOf i s joined asked bad).ReadsWord k := by
  refine ⟨fun a ha => covers_reads_of_declared ?_, fun a hlow => ?_⟩
  · rw [jobOf_regs] at ha
    have ha : (a : Int) ∈ inputAddrs s.regs (readsInput s i) := mem_inputAddrs_singleton.mpr ⟨k, hk, ha⟩
    cases i with
    | centroid => exact covers_inputSpan.mpr ha
    | atan2 => exact covers_atan2ReadSpans.mpr ha
    | describe => exact covers_describeReadSpans.mpr (.inl ha)
    | detect | score | extract | extractBkt | gridBucket | gridReduce | gridIndex | gridQuery => cases hk
  · rw [jobOf_regs, jobOf_params] at hlow
    obtain ⟨j, hj, rfl, hbelow⟩ := hlow
    refine ⟨hasked _ (mem_inputAddrs.mpr ⟨k, by simp, by omega, by omega⟩), fun _ => ?_⟩
    have hinput : IsInput s.params s.regs (readsInput s i) ((s.regs.inBase.toNat + 4 * k + j : Nat) : Int) :=
      ⟨k, hk, j, hj, rfl, hbelow⟩
    cases i with
    | centroid | atan2 | describe => exact .inl hinput
    | detect | score | extract | extractBkt | gridBucket | gridReduce | gridIndex | gridQuery => cases hk

theorem lane_jobOf {k : Nat} (hk : k < s.regs.inCount.toNat) (hinput : ∀ a ∈ inputAddrs s.regs [k], a ∈ asked)
    (hdisk : ∀ a ∈ diskOf s k, a ∈ joined ∧ a ∈ asked) (hbad : ¬ InMargin s k → bad) :
    (jobOf .centroid s joined asked bad).Lane k where
  toReadsWord := readsWord_jobOf (List.mem_range.mpr hk) hinput
  margin := hbad
  disk := fun a ha => covers_append.mpr (.inr (covers_byteSpans.mpr (hdisk a ha).1))
  diskStop := fun hmargin a ha => ⟨(hdisk a ha).2, fun hwf => .inr (.inl (isPixel_of_mem_diskOf hwf hmargin ha))⟩

theorem described_jobOf {k : Nat} (hk : k < s.regs.inCount.toNat) (hinput : ∀ a ∈ inputAddrs s.regs [k], a ∈ asked)
    (hprobes : ∀ a ∈ probesOf s k, a ∈ asked) (hbad : ¬ Describable s k → bad) :
    (jobOf .describe s joined asked bad).Described k where
  toReadsWord := readsWord_jobOf (List.mem_range.mpr hk) hinput
  margin := fun h => hbad fun hd => h hd.1
  bin := fun h => hbad fun hd => absurd hd.2 (Nat.not_lt.mpr h)
  probes := fun hadm hbin _ ha => covers_reads_of_declared
    (covers_describeReadSpans.mpr (.inr ⟨k, hk, ⟨firstRefused_input.mpr hadm, hbin⟩, ha⟩))
  probeStop := fun hd a ha => ⟨hprobes a ha, fun hwf => .inr (.inl (isPixel_of_mem_probesOf hwf hd.1 ha))⟩

/-- The job of a whole command. -/
abbrev wholeJob (i : Instr) (s : State) : Job := jobOf i s (joinedReads s i) (wholeReads s i) (¬ GoodInputs s i)

/-- The work of every command that does not write marks: all it reads is admitted and all its elements are appended, or it
stops with the first of them. -/
theorem work_emits (hi : writesMarks i = false) (hlegal : Legal i s) (hJ : (wholeJob i s).Safe) :
    ∃ b, Emits (wholeJob i s) (work i s) [] b (wholeReads s i) () (outputs s i) := by
  cases i with
  | detect | score => cases hi
  | extract =>
    refine ⟨_, (extract_emits hJ rfl rfl (walksMarks_jobOf rfl hlegal fun _ ha => ha)).cast (fun _ ha => ha) rfl ?_⟩
    rw [outputs_words (by decide), outputWords, wordsOf, List.map_map]
    rfl
  | extractBkt =>
    exact extractBkt_emits hJ rfl rfl (logBkt_of_legal hlegal) (walksMarks_jobOf rfl hlegal fun _ ha => ha)
  | gridBucket => exact gridBucket_emits hJ rfl (walksMarks_jobOf rfl hlegal fun _ ha => ha)
  | gridReduce => exact ⟨_, Emits.pure⟩
  | gridIndex => exact ⟨_, gridIndex_emits rfl⟩
  | gridQuery => exact ⟨_, gridQuery_emits rfl⟩
  | centroid =>
    refine ⟨_, centroid_emits hJ rfl rfl fun k hk => lane_jobOf hk (fun a ha => ?_) (fun a ha => ?_) fun h hgood =>
      h (hgood k hk)⟩
    · exact List.mem_append_left _ (mem_inputAddrs_singleton.mpr ⟨k, List.mem_range.mpr hk, ha⟩)
    · have hdisk := List.mem_flatMap.mpr ⟨k, List.mem_range.mpr hk, ha⟩
      exact ⟨hdisk, List.mem_append_right _ hdisk⟩
  | atan2 =>
    exact ⟨_, atan2_emits hJ rfl rfl fun k hk =>
      readsWord_jobOf hk fun a ha => mem_inputAddrs_singleton.mpr ⟨k, hk, ha⟩⟩
  | describe =>
    refine ⟨_, describe_emits hJ rfl rfl fun k hk => described_jobOf hk (fun a ha => ?_) (fun a ha => ?_) fun h hgood =>
      h (hgood k hk)⟩
    · exact List.mem_append_left _ (mem_inputAddrs_singleton.mpr ⟨k, List.mem_range.mpr hk, ha⟩)
    · exact List.mem_append_right _ (List.mem_flatMap.mpr ⟨k, List.mem_range.mpr hk, ha⟩)

end Sys2Proof.Proofs
end

section
/-! When the elements of a command stand apart from what it reads, the first of CENTROID's disks that meets its output, and
the overlap fault (20_memory R67, 44_orb_centroid R224). -/

namespace Sys2Proof.Proofs

open Sys2Proof.Machine Sys2Proof.Safety

variable {i : Instr} {s t : State} {joined asked : List Int} {bad : Prop}

/-! ## Footprints apart -/

/-- A command that ends in a next state had declared footprints apart. -/
theorem declared_apart (hpass : Passes i s) (h : exec i s = .next t) :
    SpansApart (declaredReads s i) (declaredWrites s i) := by
  have hapart := (exec_next h).1
  rw [body_passes hpass] at hapart
  have hext := worked_extends i s
  exact fun a hw hr => hapart a (hext.writes a hw) (hext.reads a hr)

/-- Outside the grid family, the elements of a command are what it declares to write. -/
theorem jobOf_safe (hm : writesMarks i = false) (hi : isGridCommand i = false)
    (hdecl : SpansApart (declaredReads s i) (declaredWrites s i))
    (hjoin : ∀ a : Nat, (a : Int) ∈ joined → ¬ Covers (declaredWrites s i) a) : (jobOf i s joined asked bad).Safe := by
  have hwrites : declaredWrites s i = [outSpan s.regs ((elementSize i).getD 1) (outputs s i).length] := by
    cases i with
    | extract | extractBkt | centroid | atan2 | describe => rw [length_outputs rfl]; rfl
    | detect | score => cases hm
    | gridBucket | gridReduce | gridIndex | gridQuery => cases hi
  intro a hw hr
  rw [jobOf_regs, jobOf_esize, jobOf_total, ← hwrites] at hw
  rcases covers_append.mp hr with hr | hr
  · exact hdecl a hw hr
  · exact hjoin a (covers_byteSpans.mp hr) hw

/-- A grid command reads nothing, or appends nothing. -/
theorem gridJob_safe (hi : isGridCommand i = true) : (wholeJob i s).Safe := by
  have hempty (e a : Nat) : ¬ Covers [outSpan s.regs e 0] a := by
    rw [covers_outSpan]
    omega
  cases i with
  | gridBucket | gridReduce => exact fun a hw => absurd hw (hempty _ a)
  | gridIndex | gridQuery => exact fun a _ => covers_nil a
  | detect | score | extract | extractBkt | centroid | atan2 | describe => cases hi

/-- Beside CENTROID, a command with its declared footprints apart appends apart from all it reads. -/
theorem wholeJob_safe (hm : writesMarks i = false) (hc : i ≠ .centroid)
    (hdecl : SpansApart (declaredReads s i) (declaredWrites s i)) : (wholeJob i s).Safe := by
  cases hi : isGridCommand i with
  | true => exact gridJob_safe hi
  | false =>
    refine jobOf_safe hm hi hdecl fun a ha => ?_
    cases i with
    | centroid => exact absurd rfl hc
    | gridBucket => cases hi
    | detect | score | extract | extractBkt | gridReduce | gridIndex | gridQuery | atan2 | describe => cases ha

/-! ## CENTROID up to a keypoint -/

/-- The disk of keypoint k meets the output of CENTROID. -/
def DiskMeets (s : State) (k : Nat) : Prop := ∃ a : Nat, (a : Int) ∈ diskOf s k ∧ Covers (declaredWrites s .centroid) a

/-- The disks of the first k keypoints. -/
def disksBefore (s : State) (k : Nat) : List Int := (List.range k).flatMap (diskOf s)

theorem exists_first_meeting {k : Nat} (h : DiskMeets s k) :
    ∃ m, m ≤ k ∧ DiskMeets s m ∧ ∀ j, j < m → ¬ DiskMeets s j := by
  classical
  exact ⟨Nat.find ⟨k, h⟩, Nat.find_min' _ h, Nat.find_spec ⟨k, h⟩, fun j hj => Nat.find_min ⟨k, h⟩ hj⟩

theorem centroidJob_safe {k : Nat} (hdecl : SpansApart (declaredReads s .centroid) (declaredWrites s .centroid))
    (hk : ∀ j, j < k → ¬ DiskMeets s j) : (jobOf .centroid s (disksBefore s k) asked bad).Safe := by
  refine jobOf_safe rfl rfl hdecl fun a ha hw => ?_
  obtain ⟨j, hj, ha⟩ := List.mem_flatMap.mp ha
  exact hk j (List.mem_range.mp hj) ⟨a, ha, hw⟩

/-- CENTROID, with the disk of keypoint k the first that meets its output, ends in a next state only by stopping before it
comes to keypoint k. -/
theorem centroid_stops_before_meeting {k : Nat} (hlegal : Legal .centroid s) (h : exec .centroid s = .next t)
    (hk : k < s.regs.inCount.toNat) (hmeets : DiskMeets s k) (hfirst : ∀ j, j < k → ¬ DiskMeets s j)
    (hasked : ∀ a ∈ centroidReads s k ++ inputAddrs s.regs [k], a ∈ asked) (hbad : ∀ j, j ≤ k → ¬ InMargin s j → bad) :
    ∃ e info c part, worked .centroid s = .err e info c ∧ part <+: (centroidWords s (k / 4)).map wordBytes ∧
      After (jobOf .centroid s (disksBefore s k) asked bad) part c ∧
      Stops (jobOf .centroid s (disksBefore s k) asked bad) (8 * (k / 4)) part.length e info := by
  have hpass : Passes .centroid s := ⟨hlegal, rfl⟩
  have hJ : (jobOf .centroid s (disksBefore s k) asked bad).Safe := centroidJob_safe (declared_apart hpass h) hfirst
  have hinput {j : Nat} (hj : j < k) {a : Int} (ha : a ∈ inputAddrs s.regs [j]) : a ∈ asked :=
    hasked a (List.mem_append_left _ (List.mem_append_left _
      (mem_inputAddrs_singleton.mpr ⟨j, List.mem_range.mpr hj, ha⟩)))
  have hdisk {j : Nat} (hj : j < k) {a : Int} (ha : a ∈ diskOf s j) : a ∈ disksBefore s k :=
    List.mem_flatMap.mpr ⟨j, List.mem_range.mpr hj, ha⟩
  have hreaches := centroid_reaches (b := []) hJ rfl rfl hk
    (fun j hj => lane_jobOf (by omega) (fun _ => hinput hj)
      (fun a ha => ⟨hdisk hj ha, hasked a (List.mem_append_left _ (List.mem_append_right _ (hdisk hj ha)))⟩)
      (hbad j hj.le))
    { toReadsWord := readsWord_jobOf (List.mem_range.mpr hk) fun a ha => hasked a (List.mem_append_right _ ha)
      margin := hbad k le_rfl }
  have hlen : ([] ++ (centroidWords s (k / 4)).map wordBytes).length ≤
      (jobOf .centroid s (disksBefore s k) asked bad).total := by
    rw [List.nil_append, List.length_map, length_centroidWords]
    have htotal : (outputs s .centroid).length = 8 * groups s.regs := length_outputs rfl
    rw [groups] at htotal
    rw [jobOf_total]
    omega
  rcases hreaches [] (entered .centroid s) hlen (after_entered rfl hlegal) rfl with
    ⟨e, info, c, part, hc, hpart, hes, hstop⟩ | hreads
  · refine ⟨e, info, c, part, Cmd.bind_err hc, hpart, hes, ?_⟩
    rwa [List.nil_append, List.nil_append, List.length_map, length_centroidWords] at hstop
  · obtain ⟨a, ha, hw⟩ := hmeets
    have hfinale : worked .centroid s = work .centroid s (entered .centroid s) := by
      rw [worked, finale, bind_pure_unit]
    have hcovers : Covers (worked .centroid s).run.reads a := by
      rw [hfinale]
      exact hreads a ha
    cases (exec_overlap hpass ((worked_extends .centroid s).writes a hw) hcovers).symm.trans h

theorem mem_centroidReads_next {k : Nat} {a : Int} :
    a ∈ centroidReads s k ++ inputAddrs s.regs [k] ↔
      (∃ j, j ≤ k ∧ a ∈ inputAddrs s.regs [j]) ∨ ∃ j, j < k ∧ a ∈ diskOf s j := by
  simp only [centroidReads, List.mem_append, List.mem_flatMap, List.mem_range]
  rw [mem_inputAddrs_singleton]
  simp only [List.mem_range]
  constructor
  · rintro ((⟨j, hj, ha⟩ | h) | ha)
    · exact .inl ⟨j, hj.le, ha⟩
    · exact .inr h
    · exact .inl ⟨k, le_rfl, ha⟩
  · rintro (⟨j, hj, ha⟩ | h)
    · rcases hj.lt_or_eq with hj | rfl
      · exact .inl (.inl ⟨j, hj, ha⟩)
      · exact .inr ha
    · exact .inl (.inr h)

/-! ## The overlap fault -/

/-- CENTROID faults where its output lies in the disk of a keypoint that it comes to. -/
theorem processedDisksFault {k : Nat} {a : Int} (hlegal : Legal .centroid s) (hk : k < s.regs.inCount.toNat)
    (hmargin : ∀ j, j ≤ k → InMargin s j) (hadm : AllAdmitted s.params (centroidReads s k ++ inputAddrs s.regs [k]))
    (hroom : Room s 4 (8 * (k / 4))) (hdisk : a ∈ diskOf s k) (hwrite : a ∈ statedWrites s .centroid) :
    exec .centroid s = .fault .footprintOverlap := by
  rcases exec_cases .centroid s with ⟨t, ht⟩ | ⟨hfault, _⟩
  case inr => exact hfault
  obtain ⟨n, rfl, hw⟩ := covers_declaredWrites (i := .centroid) rfl (fun _ h => by cases h) hwrite
  obtain ⟨m, hmk, hmeets, hfirst⟩ := exists_first_meeting ⟨n, hdisk, hw⟩
  have hasked (a : Int) (ha : a ∈ centroidReads s m ++ inputAddrs s.regs [m]) :
      a ∈ centroidReads s k ++ inputAddrs s.regs [k] :=
    mem_centroidReads_next.mpr ((mem_centroidReads_next.mp ha).imp
      (fun ⟨j, hj, ha⟩ => ⟨j, hj.trans hmk, ha⟩) fun ⟨j, hj, ha⟩ => ⟨j, hj.trans_le hmk, ha⟩)
  obtain ⟨e, info, c, part, _, _, _, hstop⟩ := centroid_stops_before_meeting (bad := False) hlegal ht (by omega) hmeets
    hfirst hasked fun j hj hnot => hnot (hmargin j (by omega))
  have hwithin := Nat.mul_le_mul_left 8 (Nat.div_le_div_right (c := 4) hmk)
  rcases stops_jobOf hstop with ⟨_, b, _, href, hb, _⟩ | ⟨_, hm, _, b, _, href, hlow⟩ | ⟨_, _, hm, hcap⟩ | ⟨hbad, _⟩
  · cases href.symm.trans (hadm b hb)
  · cases href.symm.trans (hroom.2 b (mem_outAddrs_of_lowest (by omega) hlow))
  · have := hroom.1
    omega
  · exact hbad.elim

/-- Settles O60: where the footprints that a rule states overlap, the spans declared do; CENTROID comes to the keypoint
named, or to one before it whose disk meets the output already. -/
theorem overlappingFootprintsFault : Obligations.OverlappingFootprintsFault :=
  ⟨fun _ _ _ => statedFootprintsFault, fun _ _ _ => processedDisksFault⟩

end Sys2Proof.Proofs
end

section
/-! A command with more elements than room: it appends what fits and raises OUT_FULL (20_memory R68). -/

namespace Sys2Proof.Proofs

open Sys2Proof.Machine Sys2Proof.Safety

variable {i : Instr} {s t : State}

/-! ## The elements are those that are stated -/

theorem elementSize_of_not_atan2 (hi : i ≠ .atan2) : elementSize i = some 4 ∨ outputWords s i = [] := by
  cases i with
  | atan2 => exact absurd rfl hi
  | extract | extractBkt | gridIndex | gridQuery | centroid | describe => exact .inl rfl
  | detect | score | gridBucket | gridReduce => exact .inr rfl

/-- The words that a command appends, where the grid it needs is legal and it reads no refused mark. -/
def wholeWords (s : State) : Instr → List Word
  | .extract => wordsOf (survivors s)
  | .extractBkt => flatten (fillGrid s.regs (survivors s))
  | .gridIndex => flatten s.grid.buckets
  | .gridQuery => areaHits s
  | .centroid => centroidWords s (groups s.regs)
  | .describe => describeWords s s.regs.inCount.toNat
  | .detect | .score | .gridBucket | .gridReduce | .atan2 => []

/-- The grid that a command of the grid family finds is legal. -/
theorem legalGrid_of_gridOk (hgrid : GridOk s) (hvalid : s.status.gridValid = true) : LegalGrid s.params s.grid := by
  obtain ⟨hgeom, hbuckets, _⟩ := hgrid.1 hvalid
  exact ⟨hgeom, hbuckets⟩

theorem gridValid_of_missingGrid (hi : i = .gridIndex ∨ i = .gridQuery) (h : missingGrid s i = none) :
    s.status.gridValid = true := by
  cases hv : s.status.gridValid with
  | true => rfl
  | false => rcases hi with rfl | rfl <;> simp [missingGrid, hv] at h

theorem outputWords_eq_of_grid (hlegal : Legal i s) (hi : i = .gridIndex ∨ i = .gridQuery)
    (hmissing : missingGrid s i = none) (hgrid : GridOk s) : outputWords s i = wholeWords s i := by
  have hvalid := legalGrid_of_gridOk hgrid (gridValid_of_missingGrid hi hmissing)
  rcases hi with rfl | rfl
  · exact gridEntries_eq hvalid.1
  · refine visitedHits_eq hvalid (Int.not_lt.mp ?_)
    exact of_decide_eq_false
      (not_bad_of_legal hlegal (k := (decide (s.regs.qR.toInt < 0), 0x054)) (by simp [paramChecks]))

theorem outputWords_eq (hlegal : Legal i s) (hmissing : missingGrid s i = none)
    (hgrid : isGridCommand i = true → GridOk s) (hadm : AllAdmitted s.params (wholeReads s i)) :
    outputWords s i = wholeWords s i := by
  cases i with
  | extract => exact congrArg wordsOf (survivorsIn_eq hadm)
  | extractBkt => rw [outputWords, survivorsIn_eq hadm]; rfl
  | gridIndex => exact outputWords_eq_of_grid hlegal (.inl rfl) hmissing (hgrid rfl)
  | gridQuery => exact outputWords_eq_of_grid hlegal (.inr rfl) hmissing (hgrid rfl)
  | detect | score | gridBucket | gridReduce | centroid | atan2 | describe => rfl

theorem length_wholeWords (hi : i ≠ .atan2) : (wholeWords s i).length = wholeOutput s i := by
  cases i with
  | atan2 => exact absurd rfl hi
  | extract => exact List.length_map _
  | centroid => exact length_centroidWords s _
  | describe => exact length_describeWords s _
  | extractBkt | gridIndex | gridQuery | detect | score | gridBucket | gridReduce => rfl

theorem bytesOfWords_wholeWords (hi : i ≠ .atan2) : bytesOfWords (wholeWords s i) = wholeBytes s i := by
  cases i with
  | atan2 => exact absurd rfl hi
  | extract | extractBkt | gridIndex | gridQuery | centroid | describe | detect | score | gridBucket | gridReduce => rfl

theorem size_of_outputs {b : List Byte} (hb : b ∈ outputs s i) : b.length = (elementSize i).getD 1 := by
  by_cases hi : i = .atan2
  · subst hi
    obtain ⟨k, _, rfl⟩ := List.mem_map.mp hb
    rfl
  · rw [outputs_words hi] at hb
    obtain ⟨w, hw, rfl⟩ := List.mem_map.mp hb
    rcases elementSize_of_not_atan2 (s := s) hi with h | h
    · rw [h]; rfl
    · rw [h] at hw; cases hw

theorem length_outputs_whole (hlegal : Legal i s) (hmissing : missingGrid s i = none)
    (hgrid : isGridCommand i = true → GridOk s) (hadm : AllAdmitted s.params (wholeReads s i)) :
    (outputs s i).length = wholeOutput s i := by
  by_cases hi : i = .atan2
  · subst hi
    exact length_outputs rfl
  · rw [outputs_words hi, List.length_map, outputWords_eq hlegal hmissing hgrid hadm, length_wholeWords hi]

theorem flatten_outputs_whole (hlegal : Legal i s) (hmissing : missingGrid s i = none)
    (hgrid : isGridCommand i = true → GridOk s) (hadm : AllAdmitted s.params (wholeReads s i)) :
    (outputs s i).flatten = wholeBytes s i := by
  by_cases hi : i = .atan2
  · subst hi
    rw [outputs, if_pos rfl, ← List.flatMap_def, ← List.map_eq_flatMap, ← List.range_eq_range']
    exact List.map_congr_left fun k _ => by rw [binOf, momentIndex, Nat.add_right_comm]
  · rw [outputs_words hi, outputWords_eq hlegal hmissing hgrid hadm, ← List.flatMap_def]
    exact bytesOfWords_wholeWords hi

/-! ## Footprints apart, every element counted -/

/-- What a command has in its read footprint, at most: what it reads that ends without an error. -/
theorem mem_wholeReads_of_covers (hm : writesMarks i = false) (hlegal : Legal i s) {a : Nat}
    (h : Covers (wholeJob i s).reads a) : (a : Int) ∈ wholeReads s i := by
  have hwalk (hi : walks i = true) (h : Covers (walkReadSpans s.regs) a) : (a : Int) ∈ walkReads s.regs := by
    have := border_of_legal hi hlegal
    exact (covers_walkReadSpans (by omega)).mp h
  have hsplit := covers_append.mp h
  rw [covers_byteSpans] at hsplit
  cases i with
  | detect | score => cases hm
  | extract | extractBkt => exact hsplit.elim (hwalk rfl) fun h => by cases h
  | gridBucket => exact hsplit.elim (fun h => absurd h (covers_nil a)) id
  | gridReduce | gridIndex | gridQuery => exact hsplit.elim (fun h => absurd h (covers_nil a)) fun h => by cases h
  | centroid => exact List.mem_append.mpr (hsplit.imp_left covers_inputSpan.mp)
  | atan2 => exact hsplit.elim covers_atan2ReadSpans.mp fun h => by cases h
  | describe =>
    refine hsplit.elim (fun h => ?_) fun h => by cases h
    exact List.mem_append.mpr ((covers_describeReadSpans.mp h).imp_right fun ⟨k, hk, _, ha⟩ =>
      List.mem_flatMap.mpr ⟨k, List.mem_range.mpr hk, ha⟩)

theorem mem_statedWrites_of_output {e a : Nat} (hi : elementSize i = some e)
    (h : (a : Int) ∈ outAddrs s.regs e (wholeOutput s i)) : (a : Int) ∈ statedWrites s i := by
  refine List.mem_append_right _ ?_
  rw [hi]
  exact h

theorem wholeJob_safe_of_apart {e : Nat} (hi : elementSize i = some e) (hm : writesMarks i = false) (hlegal : Legal i s)
    (htotal : (outputs s i).length = wholeOutput s i) (hapart : Apart (wholeReads s i) (statedWrites s i)) :
    (wholeJob i s).Safe := by
  intro a hw hr
  refine hapart a (mem_statedWrites_of_output hi ?_) (mem_wholeReads_of_covers hm hlegal hr)
  rw [jobOf_regs, jobOf_esize, jobOf_total, hi, Option.getD_some] at hw
  exact mem_outAddrs.mpr (htotal ▸ hw)

/-! ## Out of room -/

/-- The outcome of the work of a command. -/
theorem work_outcome (hm : writesMarks i = false) (hlegal : Legal i s) (hJ : (wholeJob i s).Safe) :
    ∃ b, Outcome (wholeJob i s) (wholeReads s i) () (outputs s i) b [] (work i s (entered i s)) := by
  obtain ⟨b, hemits⟩ := work_emits hm hlegal hJ
  exact ⟨b, hemits [] (entered i s) le_rfl (after_entered hm hlegal) rfl⟩

/-- A command with less room than elements, that nothing else stops, stops when the room is full. -/
theorem work_stops_full {e n : Nat} (hi : elementSize i = some e) (hm : writesMarks i = false) (hlegal : Legal i s)
    (hJ : (wholeJob i s).Safe) (hgood : GoodInputs s i) (hadm : AllAdmitted s.params (wholeReads s i))
    (hroom : s.regs.outCount.toNat + n = s.regs.outCap.toNat) (hn : n < (outputs s i).length)
    (hout : AllAdmitted s.params (outAddrs s.regs e n)) :
    ∃ c, work i s (entered i s) = .err .outFull s.regs.outCap c ∧ After (wholeJob i s) ((outputs s i).take n) c := by
  obtain ⟨b, h⟩ := work_outcome hm hlegal hJ
  generalize work i s (entered i s) = res at h ⊢
  cases h with
  | ok hes _ _ =>
    have := hes.room (Nat.zero_lt_of_lt hn)
    rw [jobOf_regs, List.nil_append] at this
    omega
  | err hpart hes hstop =>
    rw [List.nil_append] at hes hstop
    rcases stops_jobOf hstop with
      ⟨_, b, _, href, hb, _⟩ | ⟨_, hm, hlt, b, _, href, hlow⟩ | ⟨rfl, rfl, hm, hcap⟩ | ⟨hbad, _⟩
    · cases href.symm.trans (hadm b hb)
    · rw [hi, Option.getD_some] at hlow
      cases href.symm.trans (hout b (mem_outAddrs_of_lowest (by omega) hlow))
    · rw [List.prefix_iff_eq_take.mp hpart] at hes
      rw [show n = _ from Nat.add_left_cancel (hroom.trans hcap.symm)]
      exact ⟨_, rfl, hes⟩
    · exact absurd hgood hbad

theorem exec_of_work_err {e : ErrCode} {info : Word} {c : Run} {part : List (List Byte)} (hpass : Passes i s)
    (hJ : (wholeJob i s).Safe) (h : work i s (entered i s) = .err e info c) (hes : After (wholeJob i s) part c) :
    exec i s = .next ((refreshed i c.st).raise e info) := by
  rw [exec_eq]
  exact runCommand_err ((body_passes hpass).trans (Cmd.bind_err h)) fun a hw hr =>
    hJ a (hes.writes a hw) (hes.reads a hr)

/-- The bytes of some first elements stand where they belong, and nothing else of memory has changed. -/
theorem After.memory {part : List (List Byte)} {c : Run} (hes : After (wholeJob i s) part c) {e : Nat}
    (hi : elementSize i = some e) :
    (∀ k (h : k < part.flatten.length), Memory.read c.st.mem (outStart s.regs e + k) = part.flatten[k]) ∧
      ∀ a, (a < outStart s.regs e ∨ outStart s.regs e + part.flatten.length ≤ a) →
        Memory.read c.st.mem a = Memory.read s.mem a := by
  have hmem : c.st.mem = Memory.writeBytes s.mem (outStart s.regs e) part.flatten := by
    rw [hes.frame, jobOf_regs, jobOf_mem, jobOf_esize, hi, Option.getD_some]
  rw [hmem]
  exact ⟨fun k hk => Memory.read_writeBytes_inside _ _ _ _ hk, fun a ha => Memory.read_writeBytes_outside _ _ _ _ ha⟩

theorem flatten_take {es : List (List Byte)} {e : Nat} (h : ∀ b ∈ es, b.length = e) (n : Nat) :
    (es.take n).flatten = es.flatten.take (e * n) := by
  induction es generalizing n with
  | nil => simp
  | cons b es ih =>
    cases n with
    | zero => simp
    | succ n =>
      have hb := h b List.mem_cons_self
      rw [List.take_succ_cons, List.flatten_cons, List.flatten_cons, ih fun x hx => h x (List.mem_cons_of_mem b hx),
        List.take_append, hb, Nat.mul_succ, Nat.add_sub_cancel, List.take_of_length_le (l := b) (by omega)]

/-- Only GRID_INDEX writes the index table. -/
theorem index_of_exec (hi : i ≠ .gridIndex) (h : exec i s = .next t) : t.index = s.index := by
  obtain ⟨hspare, hquery, _, hreduce, hlose, _⟩ := gridStateFrame i s t h
  cases i with
  | gridIndex => exact absurd rfl hi
  | detect | score | extract | centroid | atan2 | describe => exact (hspare (by decide)).2.1
  | gridQuery => exact (hquery rfl).2.1
  | gridReduce => exact (hreduce rfl).2.1
  | gridBucket => exact hlose (.inl rfl)
  | extractBkt => exact hlose (.inr rfl)

/-- The grid commands set GRID_TOTAL to what it shows already. -/
theorem refreshed_of_gridOk {u : State} (hgrid : GridOk s) (htotal : u.gridTotal = s.gridTotal)
    (hvalid : u.status.gridValid = s.status.gridValid) (hbuckets : u.grid = s.grid) : refreshed i u = u := by
  have hshown : (if u.status.gridValid then BitVec.ofNat 32 (entryCount u.grid.buckets) else 0) = u.gridTotal := by
    obtain ⟨hv, hi⟩ := hgrid
    rw [htotal, hvalid, hbuckets]
    split
    next h => exact (hv h).2.2.2.symm
    next h => exact (hi (by simpa using h)).2.symm
  unfold refreshed State.refreshTotal
  rw [hshown]
  split <;> rfl

/-- What a command has changed that OUT_FULL stops, memory and STATUS apart. -/
theorem raise_full_eq {e n : Nat} {u : State} {m : Memory} {idx : List Word} {info : Word} (hi : elementSize i = some e)
    (hgrid : isGridCommand i = true → GridOk s) (hindex : i ≠ .gridIndex → idx = s.index)
    (hu : u = { enteredState i s with
      mem := m
      regs := { s.regs with outCount := s.regs.outCount + BitVec.ofNat 32 n }
      result := s.result + BitVec.ofNat 32 n
      index := idx })
    (ht : t = (refreshed i u).raise .outFull info) :
    t = { beforeFull i s t with
      mem := t.mem
      regs := { (beforeFull i s t).regs with outCount := (beforeFull i s t).regs.outCount + BitVec.ofNat 32 n }
      result := (beforeFull i s t).result + BitVec.ofNat 32 n
      status := t.status
      errInfo := t.errInfo } ∧
    t.status = { (beforeFull i s t).status with busy := false, done := true, err := true, errCode := .outFull } := by
  cases i with
  | extract | centroid | atan2 | describe | extractBkt =>
    rw [hindex (by decide)] at hu
    subst hu ht
    exact ⟨rfl, rfl⟩
  | gridIndex =>
    rw [refreshed_of_gridOk (hgrid rfl) (by rw [hu]; rfl) (by rw [hu]; rfl) (by rw [hu]; rfl)] at ht
    subst hu ht
    exact ⟨rfl, rfl⟩
  | gridQuery =>
    rw [hindex (by decide)] at hu
    rw [refreshed_of_gridOk (hgrid rfl) (by rw [hu]; rfl) (by rw [hu]; rfl) (by rw [hu]; rfl)] at ht
    subst hu ht
    exact ⟨rfl, rfl⟩
  | detect | score | gridBucket | gridReduce => cases hi

theorem index_refreshed_raise (i : Instr) (u : State) (e : ErrCode) (info : Word) :
    ((refreshed i u).raise e info).index = u.index := (index_refreshed i u).1

theorem mem_refreshed_raise (i : Instr) (u : State) (e : ErrCode) (info : Word) :
    ((refreshed i u).raise e info).mem = u.mem := mem_refreshed i u

theorem beforeFull_regs (i : Instr) (s t : State) : (beforeFull i s t).regs = s.regs := by cases i <;> rfl
theorem beforeFull_mem (i : Instr) (s t : State) : (beforeFull i s t).mem = s.mem := by cases i <;> rfl

theorem writesMarks_of_elementSize {e : Nat} (hi : elementSize i = some e) : writesMarks i = false := by
  cases i with
  | detect | score => cases hi
  | extract | extractBkt | gridBucket | gridReduce | gridIndex | gridQuery | centroid | atan2 | describe => rfl

/-- Settles O29: the work stops with the elements that fit, each with its content, and OUT_FULL records it. -/
theorem commandsStopWhenTheOutputIsFull : Obligations.CommandsStopWhenTheOutputIsFull := by
  intro i e n s hi hmissing hlegal hgrid hgood hadm hroom hn hout hapart
  have hm := writesMarks_of_elementSize hi
  have htotal := length_outputs_whole hlegal hmissing hgrid hadm
  have hJ := wholeJob_safe_of_apart hi hm hlegal htotal hapart
  obtain ⟨c, hc, hes⟩ := work_stops_full hi hm hlegal hJ hgood hadm hroom (htotal ▸ hn) hout
  have hexec := exec_of_work_err ⟨hlegal, hmissing⟩ hJ hc hes
  have hsize (b : List Byte) (hb : b ∈ outputs s i) : b.length = e := by rw [size_of_outputs hb, hi, Option.getD_some]
  have hlen : ((outputs s i).take n).length = n := by rw [List.length_take]; omega
  have hframe : c.st = { enteredState i s with
      mem := c.st.mem
      regs := { s.regs with outCount := s.regs.outCount + BitVec.ofNat 32 n }
      result := s.result + BitVec.ofNat 32 n
      index := c.st.index } := by
    have hframe := hes.frame
    have hresult : (wholeJob i s).start.result = s.result := enteredState_result i s
    rw [jobOf_regs, jobOf_mem, hresult, hlen] at hframe
    have hmem : c.st.mem = _ := congrArg State.mem hframe
    rw [hmem]
    exact hframe
  obtain ⟨hstate, hstatus⟩ := raise_full_eq hi hgrid
    (fun hne => (index_refreshed_raise i c.st _ _).symm.trans (index_of_exec hne hexec)) hframe rfl
  have hmemory := hes.memory hi
  rw [flatten_take hsize, flatten_outputs_whole hlegal hmissing hgrid hadm] at hmemory
  refine ⟨_, hexec, ⟨hstate, ?_, ?_⟩, hstatus, rfl⟩ <;> rw [mem_refreshed_raise, beforeFull_regs]
  · exact hmemory.1
  · rw [beforeFull_mem]
    exact hmemory.2

end Sys2Proof.Proofs
end

section
/-! DETECT and SCORE: every address they read or write is admitted, or BUS reports one that is not (40_fast_detect R124 to
R126, 41_harris_score R147, R148). -/

namespace Sys2Proof.Proofs

open Sys2Proof.Machine Sys2Proof.Safety

variable {α β : Type}

/-! ## The judgement -/

/-- A part that ends well has had all of `as` admitted, and then `Q` holds; otherwise BUS reports a refused address with
the property `P`. -/
inductive Asked (p : Params) (P : Int → Prop) (as : List Int) (Q : α → Run → Prop) : CmdResult α → Prop
  | ok {v : α} {c : Run} (hadm : AllAdmitted p as) (hq : Q v c) : Asked p P as Q (.ok v c)
  | err {a : Int} {c : Run} (href : admitted p a = false) (ha : P a) : Asked p P as Q (.err .bus (busInfo a) c)

variable {p : Params} {P : Int → Prop} {c : Run}

theorem Asked.bind {x : Cmd α} {f : α → Cmd β} {as as' : List Int} {Q : α → Run → Prop} {Q' : β → Run → Prop}
    (hx : Asked p P as Q (x c)) (hf : ∀ v c', Q v c' → Asked p P as' Q' (f v c')) :
    Asked p P (as ++ as') Q' (Cmd.bind x f c) := by
  cases hxc : x c with
  | ok v c' =>
    rw [hxc] at hx
    obtain ⟨hadm, hq⟩ | _ := hx
    rw [Cmd.bind_ok hxc]
    have h := hf v c' hq
    generalize f v c' = res at h ⊢
    cases h with
    | ok hadm' hq' => exact .ok (fun a ha => (List.mem_append.mp ha).elim (hadm a) (hadm' a)) hq'
    | err href ha => exact .err href ha
  | err e info c' =>
    rw [hxc] at hx
    rw [Cmd.bind_err hxc]
    cases hx with
    | err href ha => exact .err href ha

/-- A loop over a list, with an invariant about the elements still to come. -/
theorem Asked.forList {f : α → Cmd Unit} {as : List α} {rd : α → List Int} {I : List α → Run → Prop}
    (h : ∀ a rest c, a :: rest <:+ as → I (a :: rest) c → Asked p P (rd a) (fun _ c' => I rest c') (f a c))
    (hI : I as c) : Asked p P (as.flatMap rd) (fun _ c' => I [] c') (Cmd.forList as f c) := by
  induction as generalizing c with
  | nil => exact .ok (fun _ ha => by cases ha) hI
  | cons a as ih =>
    exact (h a as c List.suffix_rfl hI).bind fun _ c' hc' =>
      ih (fun x rest c hsuf => h x rest c (hsuf.trans (List.suffix_cons a as))) hc'

theorem Asked.mono {as as' : List Int} {Q Q' : α → Run → Prop} {res : CmdResult α} (h : Asked p P as Q res)
    (has : ∀ a ∈ as', a ∈ as) (hq : ∀ v c, Q v c → Q' v c) : Asked p P as' Q' res := by
  cases h with
  | ok hadm h => exact .ok (fun a ha => hadm a (has a ha)) (hq _ _ h)
  | err href ha => exact .err href ha

theorem Asked.readUnordered {as : List Int} (hc : c.st.params = p) (hP : ∀ a ∈ as, P a) :
    Asked p P as (fun _ c' => c' = c) (readUnordered as c) := by
  subst hc
  rcases readUnordered_cases as c with ⟨hadm, h⟩ | ⟨a, ha, href, h⟩ <;> rw [h]
  · exact .ok hadm rfl
  · exact .err href (hP a ha)

theorem Asked.memReadByte {a : Int} (hc : c.st.params = p) (hP : P a) :
    Asked p P [a] (fun v c' => v = Memory.read c.st.mem a.toNat ∧ c' = c) (memReadByte a c) := by
  subst hc
  cases hadm : admitted c.st.params a with
  | true =>
    rw [memReadByte_ok hadm]
    exact .ok (List.forall_mem_singleton.mpr hadm) ⟨rfl, rfl⟩
  | false =>
    have hrefused : firstRefused c.st.params a 1 = some a := by simp [firstRefused, hadm]
    have herr : Machine.memReadByte a c = .err .bus (busInfo a) c := by
      refine Cmd.bind_err (Cmd.bind_err ?_)
      simp only [admitAccess, hrefused]
    rw [herr]
    exact .err hadm hP

theorem Asked.memWriteByte {a : Int} {v : Byte} (hc : c.st.params = p) (hP : P a) :
    Asked p P [a] (fun _ c' => c'.st = { c.st with mem := Memory.writeBytes c.st.mem a.toNat [v] })
      (memWrite a [v] c) := by
  subst hc
  rcases memWrite_cases a [v] c with ⟨hadm, h⟩ | ⟨b, hb, h⟩ <;> rw [h]
  · exact .ok (List.forall_mem_singleton.mpr (by simpa using hadm 0)) rfl
  · obtain ⟨i, hi, rfl, href, _⟩ := firstRefused_eq_some hb
    obtain rfl : i = 0 := by simpa using hi
    rw [Nat.cast_zero, add_zero] at href ⊢
    exact .err href hP

/-! ## DETECT -/

/-- BUS can name an address that a command asks for. -/
def Named (s : State) (i : Instr) (a : Int) : Prop := s.params.wf = true → MayStopAt s.params s.regs a i

theorem border_of_detect {s : State} (h : Legal .detect s) : 3 ≤ s.regs.border.toNat :=
  Nat.not_lt.mp (of_decide_eq_false (not_bad_of_legal h (k := borderCheck s.regs 3) (by simp [paramChecks])))

/-- The two edge bytes of row y, where the row has them. -/
def rowEdges (r : ParamRegs) (y : Nat) : List Int :=
  if r.width.toNat % 16 = 0 then [] else [markAddr r (r.width.toNat : Int) y, markAddr r ((r.width.toNat : Int) + 1) y]

theorem edgeAddrs_eq (r : ParamRegs) :
    edgeAddrs r = (List.range' r.border.toNat (innerExtent r.height r.border)).flatMap (rowEdges r) := by
  unfold edgeAddrs rowEdges
  split
  · simp
  · rfl

theorem detectPixel_asked {s : State} (hlegal : Legal .detect s) {x y : Nat} (hcell : (x, y) ∈ regionCells s.regs)
    (hc : c.st.params = s.params) :
    Asked s.params (Named s .detect) (ringAddrs s.params s.regs x y ++ [markAddr s.regs x y])
      (fun _ c' => c'.st.params = s.params) (detectPixel s.params s.regs y x c) := by
  refine (Asked.readUnordered hc fun a ha hwf =>
    .inl (isPixel_of_mem_ringAddrs hwf (border_of_detect hlegal) hcell ha)).bind ?_
  rintro v _ rfl
  exact (Asked.memWriteByte hc fun _ => .inr (.inl (isMark_of_mem_regionCells hcell))).mono (fun _ ha => ha)
    fun _ c' hc' => by rw [hc']; exact hc

theorem detectEdge_asked {s : State} {y : Nat}
    (hy : y ∈ List.range' s.regs.border.toNat (innerExtent s.regs.height s.regs.border)) (hc : c.st.params = s.params) :
    Asked s.params (Named s .detect) (rowEdges s.regs y) (fun _ c' => c'.st.params = s.params)
      (detectEdge s.regs y c) := by
  have hedge {a : Int} (ha : a ∈ rowEdges s.regs y) : Named s .detect a := fun _ =>
    .inr (.inr (edgeAddrs_eq s.regs ▸ List.mem_flatMap.mpr ⟨y, hy, ha⟩))
  unfold rowEdges at hedge ⊢
  unfold detectEdge
  split
  next hw => exact .ok (fun _ ha => by cases ha) hc
  next hw =>
    simp only [hw, if_false] at hedge
    refine (Asked.memWriteByte hc (hedge List.mem_cons_self)).bind fun _ c' hc' => ?_
    have hc' : c'.st.params = s.params := by rw [hc']; exact hc
    exact (Asked.memWriteByte hc' (hedge (List.mem_cons_of_mem _ List.mem_cons_self))).mono (fun _ ha => ha)
      fun _ c'' hc'' => by rw [hc'']; exact hc'

/-- What DETECT asks for in row y. -/
def rowAsked (s : State) (y : Nat) : List Int :=
  ((List.range' s.regs.border.toNat (innerExtent s.regs.width s.regs.border)).flatMap fun (x : Nat) =>
    ringAddrs s.params s.regs x y ++ [markAddr s.regs x y]) ++ rowEdges s.regs y

theorem detectRow_asked {s : State} (hlegal : Legal .detect s) {y : Nat}
    (hy : y ∈ List.range' s.regs.border.toNat (innerExtent s.regs.height s.regs.border)) (hc : c.st.params = s.params) :
    Asked s.params (Named s .detect) (rowAsked s y) (fun _ c' => c'.st.params = s.params)
      (detectRow s.params s.regs y c) := by
  have hpixels : Asked s.params (Named s .detect)
      ((List.range' s.regs.border.toNat (innerExtent s.regs.width s.regs.border)).flatMap fun (x : Nat) =>
        ringAddrs s.params s.regs x y ++ [markAddr s.regs x y])
      (fun _ c' => c'.st.params = s.params)
      (Cmd.forList (List.range' s.regs.border.toNat (innerExtent s.regs.width s.regs.border))
        (detectPixel s.params s.regs y) c) :=
    .forList (I := fun _ c => c.st.params = s.params) (fun x _ c hx hc => detectPixel_asked hlegal (mem_regionCells.mpr
      ⟨List.mem_range'_1.mp (hx.subset List.mem_cons_self), List.mem_range'_1.mp hy⟩) hc) hc
  unfold detectRow
  rw [forRange_eq_forList]
  exact hpixels.bind fun _ c' hc' => detectEdge_asked hy hc'

theorem mem_rowAsked {s : State} {a : Int} (ha : a ∈ wholeReads s .detect ++ wholeMarkWrites s .detect) :
    ∃ y ∈ List.range' s.regs.border.toNat (innerExtent s.regs.height s.regs.border), a ∈ rowAsked s y := by
  have hcell {x y : Nat} (hc : (x, y) ∈ regionCells s.regs)
      (ha : a ∈ ringAddrs s.params s.regs x y ++ [markAddr s.regs x y]) :
      ∃ y ∈ List.range' s.regs.border.toNat (innerExtent s.regs.height s.regs.border), a ∈ rowAsked s y := by
    obtain ⟨hx, hy⟩ := mem_regionCells.mp hc
    exact ⟨y, List.mem_range'_1.mpr hy, List.mem_append_left _ (List.mem_flatMap.mpr ⟨x, List.mem_range'_1.mpr hx, ha⟩)⟩
  rcases List.mem_append.mp ha with ha | ha
  · obtain ⟨⟨x, y⟩, hc, ha⟩ := List.mem_flatMap.mp ha
    exact hcell hc (List.mem_append_left _ ha)
  rcases List.mem_append.mp ha with ha | ha
  · obtain ⟨⟨x, y⟩, hc, rfl⟩ := List.mem_map.mp ha
    exact hcell hc (List.mem_append_right _ List.mem_cons_self)
  · rw [edgeAddrs_eq] at ha
    obtain ⟨y, hy, ha⟩ := List.mem_flatMap.mp ha
    exact ⟨y, hy, List.mem_append_right _ ha⟩

theorem detect_asked {s : State} (hlegal : Legal .detect s) :
    Asked s.params (Named s .detect) (wholeReads s .detect ++ wholeMarkWrites s .detect) (fun _ _ => True)
      (work .detect s (entered .detect s)) := by
  dsimp only [work]
  rw [forRange_eq_forList]
  exact (Asked.forList (I := fun _ c => c.st.params = s.params) (c := entered .detect s)
    (fun y _ c hy hc => detectRow_asked hlegal (hy.subset List.mem_cons_self) hc) rfl).mono
      (fun a ha => List.mem_flatMap.mpr (mem_rowAsked ha)) fun _ _ _ => trivial

end Sys2Proof.Proofs
end

section
/-! SCORE: a mark is read before any write to it, since no two cells of the region share an address (41_harris_score R147,
R148). -/

namespace Sys2Proof.Proofs

open Sys2Proof.Machine Sys2Proof.Safety

variable {s : State} {c : Run}

theorem border_of_score (h : Legal .score s) : 4 ≤ s.regs.border.toNat :=
  Nat.not_lt.mp (of_decide_eq_false (not_bad_of_legal h (k := borderCheck s.regs 4) (by simp [paramChecks])))

theorem stride_of_score (h : Legal .score s) : s.regs.width.toNat ≤ s.regs.stride.toNat :=
  Nat.not_lt.mp (of_decide_eq_false (not_bad_of_legal h
    (k := (decide (s.regs.stride.toNat < s.regs.width.toNat), 0x018)) (by simp [paramChecks, rasterChecks])))

/-- The cells of the region are listed once each. -/
theorem nodup_regionCells (r : ParamRegs) : (regionCells r).Nodup := by
  refine List.nodup_flatMap.mpr ⟨fun y _ => List.Nodup.map (fun x x' h => (Prod.mk.inj h).1) List.nodup_range', ?_⟩
  refine List.Pairwise.imp ?_ (List.nodup_range' (s := r.border.toNat) (n := innerExtent r.height r.border))
  intro y y' hne c hc hc'
  obtain ⟨x, _, rfl⟩ := List.mem_map.mp hc
  obtain ⟨x', _, he⟩ := List.mem_map.mp hc'
  exact hne (Prod.mk.inj he).2.symm

/-- The marks of two cells of the region stand at two addresses, as STRIDE is at least WIDTH (R149). -/
theorem markAddr_inj {r : ParamRegs} (hstride : r.width.toNat ≤ r.stride.toNat) {d d' : Nat × Nat}
    (hd : d ∈ regionCells r) (hd' : d' ∈ regionCells r)
    (h : (markAddr r d.1 d.2).toNat = (markAddr r d'.1 d'.2).toNat) : d = d' := by
  obtain ⟨⟨hx, hx'⟩, _⟩ := mem_regionCells.mp hd
  obtain ⟨⟨hz, hz'⟩, _⟩ := mem_regionCells.mp hd'
  simp only [innerExtent] at hx' hz'
  rw [markAddr_natCast, markAddr_natCast, Int.toNat_natCast, Int.toNat_natCast] at h
  have hrow : d.2 * r.stride.toNat + d.1 = d'.2 * r.stride.toNat + d'.1 := by omega
  have hy : d.2 = d'.2 := by
    have := congrArg (· / r.stride.toNat) hrow
    simpa [Nat.add_comm _ d.1, Nat.add_comm _ d'.1, Nat.add_mul_div_right _ _ (show 0 < r.stride.toNat by omega),
      Nat.div_eq_of_lt (show d.1 < r.stride.toNat by omega),
      Nat.div_eq_of_lt (show d'.1 < r.stride.toNat by omega)] using this
  rw [hy] at hrow
  exact Prod.ext (Nat.add_left_cancel hrow) hy

/-- The marks still to be visited are as they were. -/
def MarksKept (s : State) (rest : List (Nat × Nat)) (c : Run) : Prop :=
  c.st.params = s.params ∧
    ∀ d ∈ rest, Memory.read c.st.mem (markAddr s.regs d.1 d.2).toNat = mark s d.1 d.2

/-- What SCORE asks for at a cell. -/
def cellAsked (s : State) (d : Nat × Nat) : List Int :=
  [markAddr s.regs d.1 d.2] ++
    if mark s d.1 d.2 = 0 then [] else patchAddrs s.params s.regs d.1 d.2 ++ [markAddr s.regs d.1 d.2]

theorem scorePixel_asked (hlegal : Legal .score s) {d : Nat × Nat} {rest : List (Nat × Nat)}
    (hsuf : d :: rest <:+ regionCells s.regs) (hc : MarksKept s (d :: rest) c) :
    Asked s.params (Named s .score) (cellAsked s d) (fun _ c' => MarksKept s rest c')
      (scorePixel s.params s.regs d.2 d.1 c) := by
  have hd : d ∈ regionCells s.regs := hsuf.subset List.mem_cons_self
  have hnodup : (d :: rest).Nodup := (nodup_regionCells s.regs).sublist hsuf.sublist
  have hmark : Named s .score (markAddr s.regs d.1 d.2) := fun _ => .inr (isMark_of_mem_regionCells hd)
  obtain ⟨hparams, hkept⟩ := hc
  have hrest (e : Nat × Nat) (he : e ∈ rest) := hkept e (List.mem_cons_of_mem d he)
  refine (Asked.memReadByte hparams hmark).bind ?_
  rintro v _ ⟨rfl, rfl⟩
  rw [hkept d List.mem_cons_self]
  by_cases h0 : mark s d.1 d.2 = 0
  · rw [if_pos h0, if_pos h0]
    exact .ok (fun _ ha => by cases ha) ⟨hparams, hrest⟩
  · rw [if_neg h0, if_neg h0]
    refine (Asked.readUnordered hparams fun a ha hwf =>
      .inl (isPixel_of_mem_patchAddrs hwf (border_of_score hlegal) hd ha)).bind ?_
    rintro patch _ rfl
    refine (Asked.memWriteByte hparams hmark).mono (fun _ ha => ha) fun _ c' hc' =>
      ⟨by rw [hc']; exact hparams, fun e he => ?_⟩
    rw [hc', ← hrest e he]
    refine Memory.read_writeBytes_outside _ _ _ _ ?_
    have hne : (markAddr s.regs e.1 e.2).toNat ≠ (markAddr s.regs d.1 d.2).toNat := fun h =>
      (List.nodup_cons.mp hnodup).1 (markAddr_inj (stride_of_score hlegal)
        (hsuf.subset (List.mem_cons_of_mem d he)) hd h ▸ he)
    simp only [List.length_singleton]
    omega

theorem score_work_eq (s : State) :
    work .score s = Cmd.forList (regionCells s.regs) fun d => scorePixel s.params s.regs d.2 d.1 := by
  dsimp only [work, regionCells]
  rw [forRange_eq_forList, forList_flatMap]
  congr 1
  funext y
  rw [forRange_eq_forList, forList_map]

theorem marksKept_entered (s : State) : MarksKept s (regionCells s.regs) (entered .score s) := ⟨rfl, fun _ _ => rfl⟩

theorem score_asked (hlegal : Legal .score s) :
    Asked s.params (Named s .score) (wholeReads s .score ++ wholeMarkWrites s .score) (fun _ _ => True)
      (work .score s (entered .score s)) := by
  rw [score_work_eq]
  have hcells : Asked s.params (Named s .score) ((regionCells s.regs).flatMap (cellAsked s))
      (fun _ c => MarksKept s [] c)
      (Cmd.forList (regionCells s.regs) (fun d => scorePixel s.params s.regs d.2 d.1) (entered .score s)) := by
    refine Asked.forList (I := MarksKept s) (fun d rest c hsuf hc => ?_) (marksKept_entered s)
    exact scorePixel_asked hlegal hsuf hc
  refine hcells.mono (fun a ha => ?_) fun _ _ _ => trivial
  have hmarked {d : Nat × Nat} (hd : d ∈ markedCells s)
      (ha : a ∈ patchAddrs s.params s.regs d.1 d.2 ++ [markAddr s.regs d.1 d.2]) :
      a ∈ (regionCells s.regs).flatMap (cellAsked s) := by
    obtain ⟨hd, h0⟩ := List.mem_filter.mp hd
    refine List.mem_flatMap.mpr ⟨d, hd, List.mem_append_right _ ?_⟩
    rwa [if_neg (of_decide_eq_true h0)]
  rcases List.mem_append.mp ha with ha | ha
  · rcases List.mem_append.mp ha with ha | ha
    · obtain ⟨d, hd, rfl⟩ := List.mem_map.mp ha
      exact List.mem_flatMap.mpr ⟨d, hd, List.mem_append_left _ List.mem_cons_self⟩
    · obtain ⟨d, hd, ha⟩ := List.mem_flatMap.mp ha
      exact hmarked hd (List.mem_append_left _ ha)
  · obtain ⟨d, hd, rfl⟩ := List.mem_map.mp ha
    exact hmarked hd (List.mem_append_right _ List.mem_cons_self)

end Sys2Proof.Proofs
end

section
/-! How a command ends that ends in a next state, said once for all eleven: it fails a check; it finishes, all its addresses
admitted; or it stops, and says why (20_memory R65 to R68, 60_exceptions R276). -/

namespace Sys2Proof.Proofs

open Sys2Proof.Machine Sys2Proof.Safety

variable {i : Instr} {s t : State}

/-- The bytes of an element of a command, 1 where it has none. -/
abbrev esizeOf (i : Instr) : Nat := (elementSize i).getD 1

/-- How a command has ended that ends in a next state. -/
inductive Ending (i : Instr) (s t : State) : Prop
  | unfit (hfail : ¬ Passes i s) (hcode : t.status.errCode ≠ .bus) (herr : t.status.err = true)
      (hcount : t.regs.outCount = s.regs.outCount)
  | finished (herr : t.status.err = s.status.err) (hadm : AllAdmitted s.params (wholeReads s i ++ wholeMarkWrites s i))
      (hcount : t.regs.outCount.toNat = s.regs.outCount.toNat + (outputs s i).length)
      (hout : AllAdmitted s.params (outAddrs s.regs (esizeOf i) (outputs s i).length))
  | stopped {joined asked : List Int} {m : Nat} {info : Word} (herr : t.status.err = true) (hinfo : t.errInfo = info)
      (hcount : t.regs.outCount.toNat = s.regs.outCount.toNat + m)
      (hout : AllAdmitted s.params (outAddrs s.regs (esizeOf i) m))
      (hstop : Stops (jobOf i s joined asked (¬ GoodInputs s i)) (outputs s i).length m t.status.errCode info)

/-! ## What follows the work -/

@[simp] theorem refreshed_regs (i : Instr) (u : State) : (refreshed i u).regs = u.regs := by
  unfold refreshed
  split <;> rfl

@[simp] theorem refreshed_status (i : Instr) (u : State) : (refreshed i u).status = u.status := by
  unfold refreshed
  split <;> rfl

theorem enteredState_err (i : Instr) (s : State) : (enteredState i s).status.err = s.status.err := by cases i <;> rfl

/-- What a command sets at its completion is neither OUT_COUNT nor an error. -/
theorem finale_ok (i : Instr) (s : State) (c : Run) :
    ∃ c', finale i s c = .ok () c' ∧ c'.st.regs = c.st.regs ∧ c'.st.status.err = c.st.status.err := by
  cases i <;> exact ⟨_, rfl, rfl, rfl⟩

theorem ending_of_failed_check (hfail : ¬ Passes i s) (h : exec i s = .next t) : Ending i s t := by
  obtain ⟨e, info, hbody, he⟩ := body_fails hfail
  rcases (exec_next h).2 with ⟨c, hc, _⟩ | ⟨e', info', c, hc, rfl⟩
  · rw [hbody] at hc
    cases hc
  · rw [hbody] at hc
    cases hc
    refine .unfit hfail ?_ rfl (congrArg _ (refreshed_regs i s))
    rcases he with rfl | rfl <;> exact fun h => by cases h

/-- The end of a command whose work ended well. -/
theorem exec_next_of_work_ok {c : Run} (hpass : Passes i s) (h : exec i s = .next t)
    (hc : work i s (entered i s) = .ok () c) : t.regs = c.st.regs ∧ t.status.err = c.st.status.err := by
  obtain ⟨c', hfinale, hregs, herr⟩ := finale_ok i s c
  have hbody : body i s s.begin = .ok () c' := (body_passes hpass).trans ((Cmd.bind_ok hc).trans hfinale)
  rcases (exec_next h).2 with ⟨c'', hc'', rfl⟩ | ⟨e, info, c'', hc'', _⟩
  · rw [hbody] at hc''
    cases hc''
    exact ⟨(refreshed_regs i c'.st).trans hregs, (congrArg Status.err (refreshed_status i c'.st)).trans herr⟩
  · rw [hbody] at hc''
    cases hc''

/-- The end of a command that an error has ended. -/
theorem exec_next_of_worked_err {c : Run} {e : ErrCode} {info : Word} (hpass : Passes i s) (h : exec i s = .next t)
    (hc : worked i s = .err e info c) :
    t.regs = c.st.regs ∧ t.status.err = true ∧ t.status.errCode = e ∧ t.errInfo = info := by
  have hbody := (body_passes hpass).trans hc
  rcases (exec_next h).2 with ⟨c'', hc'', _⟩ | ⟨e, info, c'', hc'', rfl⟩
  · rw [hbody] at hc''
    cases hc''
  · rw [hbody] at hc''
    cases hc''
    exact ⟨refreshed_regs i c.st, rfl, rfl, rfl⟩

/-! ## Commands that append or walk -/

variable {joined asked : List Int} {bad : Prop}

theorem After.err {es : List (List Byte)} {c : Run} (hes : After (jobOf i s joined asked bad) es c) :
    c.st.status.err = s.status.err := by
  rw [hes.frame]
  exact enteredState_err i s

theorem ending_of_stop {c : Run} {e : ErrCode} {info : Word} {part : List (List Byte)} (hpass : Passes i s)
    (h : exec i s = .next t) (hc : worked i s = .err e info c)
    (hes : After (jobOf i s joined asked (¬ GoodInputs s i)) part c) (hpart : part.length ≤ (outputs s i).length)
    (hstop : Stops (jobOf i s joined asked (¬ GoodInputs s i)) (outputs s i).length part.length e info) :
    Ending i s t := by
  obtain ⟨hregs, herr, rfl, rfl⟩ := exec_next_of_worked_err hpass h hc
  have hcount := hes.outCount hpart
  have hout := hes.admitted
  rw [jobOf_regs] at hcount
  rw [jobOf_params, jobOf_regs, jobOf_esize] at hout
  exact .stopped herr rfl (by rw [hregs, hcount]) hout hstop

theorem ending_of_job (hm : writesMarks i = false) (hpass : Passes i s) (hJ : (wholeJob i s).Safe)
    (h : exec i s = .next t) : Ending i s t := by
  obtain ⟨b, hout⟩ := work_outcome hm hpass.1 hJ
  cases hc : work i s (entered i s) with
  | ok _ c =>
    rw [hc] at hout
    obtain ⟨hes, _, hadm⟩ | _ := hout
    obtain ⟨hregs, herr⟩ := exec_next_of_work_ok hpass h hc
    rw [List.nil_append] at hes
    have hcount := hes.outCount le_rfl
    have hout := hes.admitted
    rw [jobOf_regs] at hcount
    rw [jobOf_params, jobOf_regs, jobOf_esize] at hout
    rw [jobOf_params] at hadm
    refine .finished (herr.trans hes.err) (fun a ha => ?_) (by rw [hregs, hcount]) hout
    refine (List.mem_append.mp ha).elim (hadm a) fun ha => ?_
    cases i with
    | detect | score => cases hm
    | extract | extractBkt | gridBucket | gridReduce | gridIndex | gridQuery | centroid | atan2 | describe => cases ha
  | err e info c =>
    rw [hc] at hout
    obtain _ | ⟨hpart, hes, hstop⟩ := hout
    rw [List.nil_append] at hes hstop
    exact ending_of_stop hpass h (Cmd.bind_err hc) hes hpart.length_le hstop

theorem ending_of_centroid (hpass : Passes .centroid s) (h : exec .centroid s = .next t) : Ending .centroid s t := by
  have hdecl := declared_apart hpass h
  by_cases hmeets : ∃ k, k < s.regs.inCount.toNat ∧ DiskMeets s k
  · obtain ⟨k', hk', hmeets⟩ := hmeets
    obtain ⟨k, hkk', hmeets, hfirst⟩ := exists_first_meeting hmeets
    have hk : k < s.regs.inCount.toNat := by omega
    obtain ⟨e, info, c, part, hc, hpart, hes, hstop⟩ := centroid_stops_before_meeting (bad := ¬ GoodInputs s .centroid)
      hpass.1 h hk hmeets hfirst (fun _ ha => ha) fun j hj hnot hgood => hnot (hgood j (by omega))
    have hlen : 8 * (k / 4) ≤ (outputs s .centroid).length := by
      have htotal : (outputs s .centroid).length = 8 * groups s.regs := length_outputs rfl
      rw [groups] at htotal
      omega
    have hpart := hpart.length_le
    rw [List.length_map, length_centroidWords] at hpart
    exact ending_of_stop hpass h hc hes (hpart.trans hlen) (hstop.mono hlen)
  · refine ending_of_job rfl hpass (jobOf_safe rfl rfl hdecl fun a ha hw => hmeets ?_) h
    obtain ⟨k, hk, ha⟩ := List.mem_flatMap.mp ha
    exact ⟨k, List.mem_range.mp hk, a, ha, hw⟩

/-! ## DETECT and SCORE -/

theorem regs_of_marks (hi : i = .detect ∨ i = .score) (h : exec i s = .next t) : t.regs = s.regs := by
  obtain ⟨u, hleaves, hend⟩ := exec_leaves h
  have hmem : MemOnly s u := by rcases hi with rfl | rfl <;> exact hleaves
  rw [hend.frame.1, refreshed_regs, hmem]

theorem err_of_work_ok {c : Run} (hi : i = .detect ∨ i = .score) (hpass : Passes i s)
    (hc : work i s (entered i s) = .ok () c) : c.st.status.err = s.status.err := by
  have hmem : MemOnly s c.st := by
    rcases hi with rfl | rfl
    · exact (detectBody_memOnly s.begin).ok ((body_passes hpass).trans (Cmd.bind_ok hc))
    · exact (scoreBody_memOnly s.begin).ok ((body_passes hpass).trans (Cmd.bind_ok hc))
  rw [hmem]

theorem ending_of_marks (hi : i = .detect ∨ i = .score) (hpass : Passes i s) (h : exec i s = .next t) :
    Ending i s t := by
  have hregs := regs_of_marks hi h
  have hnone : outputs s i = [] := by rcases hi with rfl | rfl <;> rfl
  have hasked : Asked s.params (Named s i) (wholeReads s i ++ wholeMarkWrites s i) (fun _ _ => True)
      (work i s (entered i s)) := by
    rcases hi with rfl | rfl
    · exact detect_asked hpass.1
    · exact score_asked hpass.1
  cases hc : work i s (entered i s) with
  | ok _ c =>
    rw [hc] at hasked
    obtain ⟨hadm, _⟩ | _ := hasked
    have herr := (exec_next_of_work_ok hpass h hc).2
    refine .finished (herr.trans (err_of_work_ok hi hpass hc)) hadm (by rw [hregs, hnone]; rfl) ?_
    rw [hnone]
    exact fun _ h => by cases h
  | err e info c =>
    rw [hc] at hasked
    cases hasked with
    | @err a _ href hnamed =>
      obtain ⟨_, herr, hcode, hinfo⟩ := exec_next_of_worked_err hpass h (Cmd.bind_err hc)
      refine .stopped (m := 0) (joined := []) (asked := [a]) herr hinfo (by rw [hregs]; rfl) (fun _ h => by cases h) ?_
      rw [hcode]
      exact .read ⟨List.mem_singleton_self _, hnamed⟩ (by rwa [jobOf_params])

/-- Every command that ends in a next state ends in one of the three ways. -/
theorem exec_ending (h : exec i s = .next t) : Ending i s t := by
  by_cases hpass : Passes i s
  case neg => exact ending_of_failed_check hpass h
  case pos =>
    cases hm : writesMarks i with
    | true =>
      refine ending_of_marks ?_ hpass h
      cases i with
      | detect => exact .inl rfl
      | score => exact .inr rfl
      | extract | extractBkt | gridBucket | gridReduce | gridIndex | gridQuery | centroid | atan2 | describe => cases hm
    | false =>
      by_cases hc : i = .centroid
      · subst hc
        exact ending_of_centroid hpass h
      · exact ending_of_job hm hpass (wholeJob_safe hm hc (declared_apart hpass h)) h

end Sys2Proof.Proofs
end

section
/-! BUS, in the four ways that software meets it (20_memory R65, R66, 60_exceptions R276). -/

namespace Sys2Proof.Proofs

open Sys2Proof.Machine Sys2Proof.Safety

variable {i : Instr} {s t : State}

/-! ## A walk that finds fewer survivors appends no more -/

theorem length_bucketInsert_eq (k : Nat) (w : Word) (b : Bucket) :
    (bucketInsert k w b).length = if b = [] ∨ b.length < k then b.length + 1 else b.length := by
  cases b with
  | nil => rfl
  | cons u b =>
    rw [show bucketInsert k w (u :: b) = if b.length + 1 < k then insertAscending w (u :: b)
      else if weaker u w then insertAscending w b else u :: b from rfl]
    simp only [List.cons_ne_nil, false_or, List.length_cons]
    split
    · exact length_insertAscending w (u :: b)
    · split
      · exact length_insertAscending w b
      · rfl

theorem length_bucketInsert_mono {k : Nat} {w : Word} {b b' : Bucket} (h : b.length ≤ b'.length) :
    (bucketInsert k w b).length ≤ (bucketInsert k w b').length := by
  simp only [length_bucketInsert_eq, ← List.length_eq_zero_iff]
  split <;> split <;> omega

theorem length_le_length_bucketInsert (k : Nat) (w : Word) (b : Bucket) : b.length ≤ (bucketInsert k w b).length := by
  rw [length_bucketInsert_eq]
  split <;> omega

/-- Each bucket of the first list is at most as long as its like in the second. -/
abbrev Shorter (bs bs' : List Bucket) : Prop := List.Forall₂ (fun b b' : Bucket => b.length ≤ b'.length) bs bs'

theorem entryCount_le_of_shorter {bs bs' : List Bucket} (h : Shorter bs bs') : entryCount bs ≤ entryCount bs' := by
  induction h with
  | nil => exact le_rfl
  | cons hb _ ih => exact Nat.add_le_add hb ih

theorem shorter_insertInto {bs bs' : List Bucket} (h : Shorter bs bs') (k : Nat) (w : Word) (n : Nat) :
    Shorter (insertInto k w n bs) (insertInto k w n bs') := by
  induction h generalizing n with
  | nil => cases n <;> exact .nil
  | cons hb hbs ih =>
    cases n with
    | zero => exact .cons (length_bucketInsert_mono hb) hbs
    | succ n => exact .cons hb (ih n)

theorem shorter_of_insertInto {bs bs' : List Bucket} (h : Shorter bs bs') (k : Nat) (w : Word) (n : Nat) :
    Shorter bs (insertInto k w n bs') := by
  induction h generalizing n with
  | nil => cases n <;> exact .nil
  | cons hb hbs ih =>
    cases n with
    | zero => exact .cons (hb.trans (length_le_length_bucketInsert k w _)) hbs
    | succ n => exact .cons hb (ih n)

theorem shorter_foldl {r : ParamRegs} {vs vs' : List Survivor} (h : vs.Sublist vs') {bs bs' : List Bucket}
    (hbs : Shorter bs bs') : Shorter (vs.foldl (insertGrid r) bs) (vs'.foldl (insertGrid r) bs') := by
  induction h generalizing bs bs' with
  | slnil => exact hbs
  | cons v _ ih => exact ih (shorter_of_insertInto hbs _ _ _)
  | cons_cons v _ ih => exact ih (shorter_insertInto hbs _ _ _)

theorem survivorsIn_sublist (s : State) : (survivorsIn s.params s.regs s.mem).Sublist (survivors s) := by
  refine List.Sublist.flatMap_right _ fun c _ => ?_
  split
  · exact List.Sublist.refl _
  · exact List.nil_sublist _

theorem length_outputs_le (hlegal : Legal i s) (hmissing : missingGrid s i = none)
    (hgrid : isGridCommand i = true → GridOk s) : (outputs s i).length ≤ wholeOutput s i := by
  cases i with
  | extract =>
    rw [length_outputs rfl]
    exact (survivorsIn_sublist s).length_le
  | extractBkt =>
    rw [length_outputs rfl, declaredOutput, wholeOutput, length_flatten]
    exact entryCount_le_of_shorter (shorter_foldl (survivorsIn_sublist s) (List.forall₂_refl _))
  | gridIndex =>
    exact (length_outputs_whole hlegal hmissing hgrid fun _ h => by cases h).le
  | gridQuery =>
    exact (length_outputs_whole hlegal hmissing hgrid fun _ h => by cases h).le
  | centroid | atan2 | describe => exact (length_outputs rfl).le
  | detect | score | gridBucket | gridReduce => exact Nat.zero_le _

/-! ## The four clauses -/

/-- The lowest refused byte of a free element is one that BUS can name. -/
theorem mayStopAt_of_isOutput {m : Nat} {a : Int} (hm : m < (outputs s i).length)
    (h : IsOutput s.params s.regs (esizeOf i) a) : MayStopAt s.params s.regs a i := by
  cases i with
  | extract | extractBkt => exact .inr h
  | gridIndex | gridQuery => exact h
  | atan2 => exact .inr h
  | centroid | describe => exact .inr (.inr h)
  | detect | score | gridBucket | gridReduce => cases hm

theorem bus_reports_own_address (hwf : s.params.wf = true) (herr : s.status.err = false) (h : exec i s = .next t)
    (hterr : t.status.err = true) (hcode : t.status.errCode = .bus) :
    ∃ a : Int, admitted s.params a = false ∧ MayStopAt s.params s.regs a i ∧ t.errInfo = BitVec.ofInt 32 a := by
  cases exec_ending h with
  | unfit _ hnot => exact absurd hcode hnot
  | finished hsame => cases (herr.symm.trans hsame.symm).trans hterr
  | stopped _ hinfo _ _ hstop =>
    rw [hcode] at hstop
    rcases stops_jobOf hstop with ⟨_, a, rfl, href, _, hmay⟩ | ⟨_, hm, hroom, a, rfl, href, hlow⟩ | ⟨he, _⟩ | ⟨_, he⟩
    · exact ⟨a, href, hmay hwf, hinfo⟩
    · exact ⟨a, href, mayStopAt_of_isOutput hm ⟨_, Nat.le_add_right _ _, hroom, hlow⟩, hinfo⟩
    · cases he
    · rcases he with he | he <;> cases he

theorem bus_raised_at_refused {a : Int} (hlegal : Legal i s) (hmissing : missingGrid s i = none)
    (hgrid : isGridCommand i = true → GridOk s) (hgood : GoodInputs s i)
    (hroom : s.regs.outCount.toNat + wholeOutput s i ≤ s.regs.outCap.toNat)
    (ha : a ∈ wholeReads s i ++ statedWrites s i) (href : admitted s.params a = false) (h : exec i s = .next t) :
    t.status.err = true ∧ t.status.errCode = .bus := by
  cases exec_ending h with
  | unfit hfail => exact absurd ⟨hlegal, hmissing⟩ hfail
  | finished _ hadm _ hout =>
    have hlen := length_outputs_whole hlegal hmissing hgrid fun b hb => hadm b (List.mem_append_left _ hb)
    have hall : AllAdmitted s.params (wholeReads s i ++ statedWrites s i) := by
      intro b hb
      rw [statedWrites, ← List.append_assoc] at hb
      refine (List.mem_append.mp hb).elim (hadm b) fun hb => ?_
      cases hsize : elementSize i with
      | none => rw [hsize] at hb; cases hb
      | some e =>
        rw [hsize, ← hlen] at hb
        rw [esizeOf, hsize] at hout
        exact hout b hb
    cases href.symm.trans (hall a ha)
  | stopped herr _ _ _ hstop =>
    have hle := length_outputs_le hlegal hmissing hgrid
    rcases stops_jobOf hstop with ⟨hbus, _⟩ | ⟨hbus, _⟩ | ⟨_, _, hm, hcap⟩ | ⟨hbad, _⟩
    · exact ⟨herr, hbus⟩
    · exact ⟨herr, hbus⟩
    · omega
    · exact absurd hgood hbad

theorem admitted_of_no_error (h : exec i s = .next t) (hterr : t.status.err = false) :
    AllAdmitted s.params (wholeReads s i ++ wholeMarkWrites s i) := by
  cases exec_ending h with
  | unfit _ _ herr => cases herr.symm.trans hterr
  | finished _ hadm => exact hadm
  | stopped herr => cases herr.symm.trans hterr

theorem appended_admitted {e n : Nat} (hi : elementSize i = some e) (h : exec i s = .next t)
    (hn : t.regs.outCount.toNat = s.regs.outCount.toNat + n) : AllAdmitted s.params (outAddrs s.regs e n) := by
  have hsize : esizeOf i = e := by rw [esizeOf, hi, Option.getD_some]
  subst hsize
  cases exec_ending h with
  | unfit _ _ _ hcount =>
    obtain rfl : n = 0 := by rw [hcount] at hn; omega
    exact fun _ h => by cases h
  | finished _ _ hcount hout => exact (Nat.add_left_cancel (hn.symm.trans hcount)) ▸ hout
  | stopped _ _ hcount hout => exact (Nat.add_left_cancel (hn.symm.trans hcount)) ▸ hout

/-- Settles O26, from the three ways a command can end. -/
theorem busReportsARefusedAddress : Obligations.BusReportsARefusedAddress :=
  ⟨fun _ _ _ => bus_reports_own_address, fun _ _ _ _ => bus_raised_at_refused,
    fun _ _ _ _ => admitted_of_no_error, fun _ _ _ _ _ => appended_admitted⟩

end Sys2Proof.Proofs
end

section
/-! The command word: decoding inverts encoding (30_encoding R80 to R82). -/

namespace Sys2Proof.Proofs

/-- Every word is its two fields, so no bit of it is dropped (R80). -/
theorem rsvdField_append_opField (v : Word) : rsvdField v ++ opField v = v := by
  apply BitVec.eq_of_getLsbD_eq
  intro i hi
  rw [BitVec.getLsbD_append, rsvdField, opField, BitVec.getLsbD_extractLsb', BitVec.getLsbD_extractLsb', Nat.zero_add]
  by_cases h : i < 8
  · simp [h]
  · simp [h, show i - 8 < 24 by omega, show 8 + (i - 8) = i by omega]

/-- An assigned opcode is the opcode of the command it stands for (R81). -/
theorem eq_opOfInstr_of_instrOfOp {op : Byte} {i : Instr} (h : instrOfOp op = some i) : op = opOfInstr i := by
  unfold instrOfOp at h
  split at h <;> cases h <;> exact BitVec.eq_of_toNat_eq (by assumption)

/-- The words that are accepted: RSVD = 0, and OP is assigned (R82). -/
theorem decode_eq_ok {v : Word} {i : Instr} :
    decode v = .ok i ↔ rsvdField v = 0 ∧ instrOfOp (opField v) = some i := by
  unfold decode
  split
  next hrsvd => exact iff_of_false (by simp) fun h => hrsvd h.1
  next hrsvd => cases instrOfOp (opField v) <;> simp [not_not.mp hrsvd]

theorem eq_encode_of_decode {v : Word} {i : Instr} (h : decode v = .ok i) : v = encode i := by
  obtain ⟨hrsvd, hop⟩ := decode_eq_ok.mp h
  calc v = rsvdField v ++ opField v := (rsvdField_append_opField v).symm
    _ = (0 : BitVec 24) ++ opOfInstr i := by rw [hrsvd, eq_opOfInstr_of_instrOfOp hop]
    _ = encode i := rfl

/-- Settles O2: an accepted word is RSVD = 0 above the opcode of its command, and that word decodes to the command. -/
theorem decodingInvertsEncoding : Obligations.DecodingInvertsEncoding :=
  fun _ i => ⟨eq_encode_of_decode, fun h => h ▸ decode_encode i⟩

/-- Settles O1: each of the eleven words is the encoding of its command. -/
theorem commandWordsDecodeToTheirCommands : Obligations.CommandWordsDecodeToTheirCommands :=
  ⟨decode_encode .detect, decode_encode .score, decode_encode .extract, decode_encode .extractBkt,
    decode_encode .gridBucket, decode_encode .gridReduce, decode_encode .gridIndex, decode_encode .gridQuery,
    decode_encode .centroid, decode_encode .atan2, decode_encode .describe⟩

end Sys2Proof.Proofs
end

section
/-! The keypoint word: its fields, and the host-side helpers as packed fields (30_encoding R84 to R89). -/

namespace Sys2Proof.Proofs

open Sys2Proof.Machine

theorem kpScore_pack (m : Byte) (x y : BitVec 12) : kpScore (pack m x y) = m := by
  apply BitVec.eq_of_getLsbD_eq
  intro i hi
  simp only [kpScore, pack, BitVec.getLsbD_append, BitVec.getLsbD_extractLsb']
  simp [hi, show ¬ 24 + i < 12 by omega, show ¬ 24 + i - 12 < 12 by omega, show 24 + i - 12 - 12 = i by omega]

theorem unpack_pack (m : Byte) (x y : BitVec 12) : unpack (pack m x y) = (m, x, y) := by
  rw [unpack, kpScore_pack, kpX_pack, kpY_pack]

theorem toNat_pack (m : Byte) (x y : BitVec 12) :
    (pack m x y).toNat = m.toNat * 16777216 + x.toNat * 4096 + y.toNat := by
  rw [pack, BitVec.toNat_append, BitVec.toNat_append, ← Nat.shiftLeft_add_eq_or_of_lt y.isLt,
    ← Nat.shiftLeft_add_eq_or_of_lt x.isLt, Nat.shiftLeft_eq, Nat.shiftLeft_eq]
  omega

/-- Bit i of a packed word is a bit of one of its three fields (R84). -/
theorem getLsbD_pack (m : Byte) (x y : BitVec 12) (i : Nat) :
    (pack m x y).getLsbD i =
      if i < 12 then y.getLsbD i else if i < 24 then x.getLsbD (i - 12) else m.getLsbD (i - 24) := by
  rw [pack, BitVec.getLsbD_append, BitVec.getLsbD_append]
  grind

theorem pack_unpack (kp : Word) : pack (kpScore kp) (kpX kp) (kpY kp) = kp := by
  apply BitVec.eq_of_getLsbD_eq
  intro i hi
  rw [getLsbD_pack, kpScore, kpX, kpY]
  simp only [BitVec.getLsbD_extractLsb']
  grind

/-- The mask of rescore and overlay keeps the two coordinates (R87, R88). -/
theorem getLsbD_coordinates (kp : Word) {i : Nat} (hi : i < 32) :
    (kp &&& (0x00FFFFFF : Nat)).getLsbD i = (pack 0 (kpX kp) (kpY kp)).getLsbD i := by
  have hmask : ((0x00FFFFFF : Nat) : Word).getLsbD i = decide (i < 24) := by
    rw [show ((0x00FFFFFF : Nat) : Word) = BitVec.ofNat 32 (2 ^ 24 - 1) from rfl, BitVec.getLsbD_ofNat,
      Nat.testBit_two_pow_sub_one]
    simp [hi]
  rw [BitVec.getLsbD_and, hmask, getLsbD_pack, kpX, kpY]
  simp only [BitVec.getLsbD_extractLsb']
  grind

theorem rescore_eq (kp : Word) (b : Byte) : rescore kp b = pack b (kpX kp) (kpY kp) := by
  apply BitVec.eq_of_getLsbD_eq
  intro i hi
  rw [rescore, BitVec.getLsbD_or, getLsbD_coordinates kp hi, getLsbD_pack, getLsbD_pack]
  simp only [BitVec.getLsbD_shiftLeft, BitVec.getLsbD_setWidth]
  grind

theorem overlay_eq (kp : Word) (octave : BitVec 3) (orient : BitVec 5) :
    overlay kp octave orient = pack (octave ++ orient) (kpX kp) (kpY kp) := by
  apply BitVec.eq_of_getLsbD_eq
  intro i hi
  rw [overlay, BitVec.getLsbD_or, BitVec.getLsbD_or, getLsbD_coordinates kp hi, getLsbD_pack, getLsbD_pack]
  simp only [BitVec.getLsbD_shiftLeft, BitVec.getLsbD_setWidth, BitVec.getLsbD_append]
  grind

/-- The high byte of the overlay form is the octave above the orientation bin (R84). -/
theorem kpOctave_eq (kp : Word) : kpOctave kp = (kpScore kp).extractLsb' 5 3 := by
  apply BitVec.eq_of_getLsbD_eq
  intro i hi
  simp [kpOctave, kpScore, hi, show 5 + i < 8 by omega, ← Nat.add_assoc]

theorem kpOrient_eq (kp : Word) : kpOrient kp = (kpScore kp).extractLsb' 0 5 := by
  apply BitVec.eq_of_getLsbD_eq
  intro i hi
  simp [kpOrient, kpScore, hi, show i < 8 by omega]

theorem overlay_fields (kp : Word) (octave : BitVec 3) (orient : BitVec 5) :
    kpOctave (overlay kp octave orient) = octave ∧ kpOrient (overlay kp octave orient) = orient ∧
      kpX (overlay kp octave orient) = kpX kp ∧ kpY (overlay kp octave orient) = kpY kp := by
  rw [kpOctave_eq, kpOrient_eq, overlay_eq, kpScore_pack, kpX_pack, kpY_pack]
  refine ⟨?_, ?_, rfl, rfl⟩
  · exact BitVec.extractLsb'_append_eq_left
  · exact BitVec.extractLsb'_append_eq_right

theorem toNat_scaleCoord (v : BitVec 12) (f : Word) : (scaleCoord v f).toNat = v.toNat * f.toNat / 65536 % 4096 := by
  rw [scaleCoord, BitVec.toNat_ofNat]
  omega

/-- 0x00010000 is 1.0 in Q16.16 (R89). -/
theorem scaleCoord_one (v : BitVec 12) : scaleCoord v 0x00010000 = v := by
  apply BitVec.eq_of_toNat_eq
  have hone : (0x00010000 : Word).toNat = 65536 := rfl
  have := v.isLt
  rw [toNat_scaleCoord, hone]
  omega

/-- Settles O58: every helper packs fields, and a packed word gives its fields back. -/
theorem keypointWordFieldsRoundTrip : Obligations.KeypointWordFieldsRoundTrip := by
  refine ⟨fun m x y => ⟨toNat_pack m x y, unpack_pack m x y⟩, rfl, pack_unpack, fun kp b => ?_, overlay_fields,
    fun kp f => ?_, fun kp => ?_⟩
  · rw [rescore_eq, unpack_pack]
  · rw [scale, kpScore_pack, kpX_pack, kpY_pack]
    exact ⟨rfl, toNat_scaleCoord _ _, toNat_scaleCoord _ _⟩
  · rw [scale, scaleCoord_one, scaleCoord_one, pack_unpack]

end Sys2Proof.Proofs
end

section
/-! Descriptor words: their bits are the tests, and equal pixels give zeros (30_encoding R93, 46_orb_describe R259). -/

namespace Sys2Proof.Proofs

open Sys2Proof.Machine Sys2Proof.Safety

/-- The number that a list of bits stands for has the j-th of them as its bit j. -/
theorem testBit_foldr_bits (bits : List Bool) (j : Nat) :
    (bits.foldr (fun (b : Bool) (acc : Nat) => b.toNat + 2 * acc) 0).testBit j = bits.getD j false := by
  induction bits generalizing j with
  | nil => simp
  | cons b bits ih =>
    cases j with
    | zero => cases b <;> simp
    | succ j =>
      rw [List.foldr_cons, List.getD_cons_succ, ← ih, Nat.testBit_succ]
      have := b.toNat_lt
      congr 1
      omega

theorem getLsbD_wordOfBits (bits : List Bool) {j : Nat} (hj : j < 32) :
    (wordOfBits bits).getLsbD j = bits.getD j false := by
  rw [wordOfBits, BitVec.getLsbD_ofNat, testBit_foldr_bits, decide_eq_true hj, Bool.true_and]

theorem wordOfBits_eq_zero {bits : List Bool} (h : ∀ b ∈ bits, b = false) : wordOfBits bits = 0 := by
  apply BitVec.eq_of_getLsbD_eq
  intro j hj
  rw [getLsbD_wordOfBits bits hj, getD_of_forall_mem h rfl]
  simp

/-- A test of two equal pixels fails, as the comparison is strict (R253). -/
theorem testOf_of_equal {s : State} {k j : Nat} {v : Byte} (h1 : byteAt s.mem (probeAddrs s k j).1 = v)
    (h2 : byteAt s.mem (probeAddrs s k j).2 = v) : testOf s k j = false := by
  rw [testOf, h1, h2]
  exact decide_eq_false (Nat.lt_irrefl _)

/-- Settles O57: the bits by induction over the list; a constant patch fails every test. -/
theorem descriptorBitsAreTheTests : Obligations.DescriptorBitsAreTheTests := by
  refine ⟨fun bits j _ hj => getLsbD_wordOfBits bits hj, fun s v n hflat word hword => ?_⟩
  obtain ⟨k, hk, hword⟩ := List.mem_flatMap.mp hword
  obtain ⟨w, hw, rfl⟩ := List.mem_map.mp hword
  rw [List.mem_range] at hk hw
  refine wordOfBits_eq_zero fun b hb => ?_
  obtain ⟨j, hj, rfl⟩ := List.mem_map.mp hb
  rw [List.mem_range] at hj
  obtain ⟨h1, h2⟩ := hflat k (32 * w + j) hk (by omega)
  exact testOf_of_equal h1 h2

end Sys2Proof.Proofs
end

section
/-! DETECT and SCORE write no byte outside the marks that their rules name; GRID_BUCKET and GRID_REDUCE write none
(40_fast_detect R124, R126, 41_harris_score R147, R148, 43_feature_grid R193, R197). -/

namespace Sys2Proof.Proofs

open Sys2Proof.Machine Sys2Proof.Safety

variable {α β : Type} {s t : State} {as : List Int}

/-! ## Writes inside a list of addresses -/

/-- No byte outside the addresses `as` differs. -/
def SameOutside (s : State) (as : List Int) (u : State) : Prop :=
  ∀ a : Nat, (a : Int) ∉ as → Memory.read u.mem a = Memory.read s.mem a

/-- From a run in which no byte of `s` outside `as` differs, a part leaves such a run, however it ends. -/
def Spares (s : State) (as : List Int) (x : Cmd α) : Prop :=
  ∀ c, SameOutside s as c.st → EndsIn x c fun c' => SameOutside s as c'.st

theorem Spares.of_quiet {x : Cmd α} (hx : Obeys Quiet x) : Spares s as x :=
  fun c hc => (hx c).mono fun _ hq => hq.st ▸ hc

theorem Spares.bind {x : Cmd α} {f : α → Cmd β} (hx : Spares s as x) (hf : ∀ a, Spares s as (f a)) :
    Spares s as (Cmd.bind x f) :=
  fun c hc => .bind (hx c hc) fun a c' hok => hf a c' ((hx c hc).ok hok)

theorem Spares.forList {f : α → Cmd Unit} {l : List α} (hf : ∀ a ∈ l, Spares s as (f a)) :
    Spares s as (Cmd.forList l f) := by
  induction l with
  | nil => exact .of_quiet .pure
  | cons a l ih => exact .bind (hf a List.mem_cons_self) fun _ => ih fun b hb => hf b (List.mem_cons_of_mem a hb)

theorem Spares.memWriteByte {a : Int} {v : Byte} (ha : a ∈ as) : Spares s as (memWrite a [v]) := by
  intro c hc
  rcases memWrite_cases a [v] c with ⟨hadm, h⟩ | ⟨_, _, h⟩
  · have hnonneg := (admitted_bounds (hadm 0 Nat.one_pos)).1
    refine .of_ok h fun b hb => (Memory.read_write_other _ v fun hab => hb ?_).trans (hc b hb)
    rwa [show (b : Int) = a by omega]
  · exact .of_err h (by simp) hc

/-! ## DETECT -/

theorem detectPixel_spares {p : Params} {r : ParamRegs} {x y : Nat} (h : markAddr r x y ∈ as) :
    Spares s as (detectPixel p r y x) :=
  .bind (.of_quiet .readUnordered) fun _ => .memWriteByte h

theorem detectEdge_spares {r : ParamRegs} {y : Nat} (h : ∀ a ∈ rowEdges r y, a ∈ as) :
    Spares s as (detectEdge r y) := by
  unfold rowEdges at h
  unfold detectEdge
  split
  · exact .of_quiet .pure
  next hw =>
    rw [if_neg hw] at h
    exact .bind (.memWriteByte (h _ List.mem_cons_self)) fun _ =>
      .memWriteByte (h _ (List.mem_cons_of_mem _ List.mem_cons_self))

theorem detectRow_spares {p : Params} {r : ParamRegs} {y : Nat}
    (hy : y ∈ List.range' r.border.toNat (innerExtent r.height r.border)) :
    Spares s (regionMarks r ++ edgeAddrs r) (detectRow p r y) := by
  unfold detectRow
  rw [forRange_eq_forList]
  refine .bind (.forList fun x hx => detectPixel_spares ?_) fun _ => detectEdge_spares fun a ha => ?_
  · exact List.mem_append_left _ (List.mem_map.mpr
      ⟨(x, y), mem_regionCells.mpr ⟨List.mem_range'_1.mp hx, List.mem_range'_1.mp hy⟩, rfl⟩)
  · rw [edgeAddrs_eq]
    exact List.mem_append_right _ (List.mem_flatMap.mpr ⟨y, hy, ha⟩)

theorem detectBody_spares {p : Params} {r : ParamRegs} : Spares s (regionMarks r ++ edgeAddrs r) (detectBody p r) := by
  unfold detectBody
  rw [forRange_eq_forList]
  exact .bind (.of_quiet detectChecks_quiet) fun _ => .bind (.of_quiet .declare) fun _ =>
    .forList fun _ => detectRow_spares

/-! ## SCORE -/

theorem eq_of_memReadByte {a : Int} {v : Byte} {c c' : Run} (h : memReadByte a c = .ok v c') :
    v = Memory.read c.st.mem a.toNat := by
  have hasked := Asked.memReadByte (a := a) (P := fun _ => True) (c := c) rfl trivial
  rw [h] at hasked
  obtain ⟨_, hv, _⟩ | _ := hasked
  exact hv

/-- A mark that is 0 when the command is accepted is still 0 when it is visited, so SCORE does not write it. -/
theorem scorePixel_spares {d : Nat × Nat} (hd : d ∈ regionCells s.regs) :
    Spares s (scoreWrites s) (scorePixel s.params s.regs d.2 d.1) := by
  intro c hc
  refine .after memReadByte_quiet (fun c' hq => hq.st ▸ hc) fun m c' hread hq => ?_
  have hc' : SameOutside s (scoreWrites s) c'.st := hq.st ▸ hc
  split
  next => exact .of_ok rfl hc'
  next hm =>
    refine Spares.bind (.of_quiet .readUnordered) (fun _ => .memWriteByte ?_) c' hc'
    by_contra hout
    refine hout (List.mem_map_of_mem (List.mem_filter.mpr ⟨hd, decide_eq_true fun hzero => hm ?_⟩))
    rw [markAddr_natCast] at hout
    calc m = Memory.read c.st.mem (markAddr s.regs d.1 d.2).toNat := eq_of_memReadByte hread
      _ = mark s d.1 d.2 := by
        rw [mark, byteAt, markAddr_natCast]
        exact hc _ hout
      _ = 0 := hzero

theorem scoreBody_spares : Spares s (scoreWrites s) (scoreBody s.params s.regs) := by
  have hwork : Spares s (scoreWrites s) (work .score s) := by
    rw [score_work_eq]
    exact .forList fun _ => scorePixel_spares
  exact .bind (.of_quiet scoreChecks_quiet) fun _ => .bind (.of_quiet .get) fun _ =>
    .bind (.of_quiet .declare) fun _ => hwork

/-! ## Whole commands -/

/-- What a body spares is as it was when the command has ended. -/
theorem sameOutside_of_runCommand {body : Cmd Unit} (hbody : Spares s as body) (h : runCommand id body s = .next t) :
    SameOutside s as t := by
  obtain ⟨u, hu, hend⟩ :=
    endsAs_of_runCommand (last := id) (Q := SameOutside s as) (hbody s.begin fun _ _ => rfl) h
  rw [hend.frame.1]
  exact hu

theorem marks_frame {i : Instr} (hi : i = .detect ∨ i = .score) (h : exec i s = .next t) :
    t = { s with mem := t.mem, status := t.status, errInfo := t.errInfo } ∧
      t.status.gridValid = s.status.gridValid ∧ t.status.indexValid = s.status.indexValid := by
  obtain ⟨u, hleaves, hend⟩ := exec_leaves h
  have hmem : MemOnly s u := by rcases hi with rfl | rfl <;> exact hleaves
  rw [refreshed_of_not_grid (by rcases hi with rfl | rfl <;> rfl)] at hend
  obtain ⟨m, rfl⟩ : ∃ m, u = { s with mem := m } := ⟨_, hmem⟩
  rcases hend with rfl | ⟨_, _, _, rfl⟩ <;> exact ⟨rfl, rfl, rfl⟩

theorem grid_frame {i : Instr} (hi : i = .gridBucket ∨ i = .gridReduce) (h : exec i s = .next t) :
    t.mem = s.mem ∧ t.regs = s.regs := by
  obtain ⟨u, hleaves, hend⟩ := exec_leaves h
  have hu : u.mem = s.mem ∧ u.regs = s.regs := by
    rcases hi with rfl | rfl
    · rcases hleaves with rfl | rfl | ⟨_, _, rfl⟩ <;> exact ⟨rfl, rfl⟩
    · rcases hleaves with rfl | rfl <;> exact ⟨rfl, rfl⟩
  rw [hend.frame.1]
  exact ⟨(mem_refreshed i u).trans hu.1, (refreshed_regs i u).trans hu.2⟩

/-- Settles O21: the frame of the body, and the marks that DETECT and SCORE write cell by cell. -/
theorem markAndGridCommandsFrame : Obligations.MarkAndGridCommandsFrame :=
  ⟨fun _ _ _ => marks_frame, fun _ _ => sameOutside_of_runCommand detectBody_spares,
    fun _ _ => sameOutside_of_runCommand scoreBody_spares, fun _ _ _ => grid_frame⟩

end Sys2Proof.Proofs
end

section
/-! A command with room for all its elements, that nothing stops: it appends them and ends without an error
(20_memory R68). -/

namespace Sys2Proof.Proofs

open Sys2Proof.Machine Sys2Proof.Safety

variable {i : Instr} {s : State}

/-- The work of a command that nothing stops gives all its elements. -/
theorem work_finishes (hm : writesMarks i = false) (hlegal : Legal i s) (hJ : (wholeJob i s).Safe)
    (hgood : GoodInputs s i) (hadm : AllAdmitted s.params (wholeReads s i))
    (hroom : s.regs.outCount.toNat + (outputs s i).length ≤ s.regs.outCap.toNat)
    (hout : AllAdmitted s.params (outAddrs s.regs (esizeOf i) (outputs s i).length)) :
    ∃ c, work i s (entered i s) = .ok () c ∧ After (wholeJob i s) (outputs s i) c := by
  obtain ⟨b, h⟩ := work_outcome hm hlegal hJ
  generalize work i s (entered i s) = res at h ⊢
  cases h with
  | ok hes => exact ⟨_, rfl, hes⟩
  | err _ _ hstop =>
    rw [List.nil_append] at hstop
    rcases stops_jobOf hstop with
      ⟨_, a, _, href, ha, _⟩ | ⟨_, hlt, _, a, _, href, hlow⟩ | ⟨_, _, hlt, hcap⟩ | ⟨hbad, _⟩
    · cases href.symm.trans (hadm a ha)
    · cases href.symm.trans (hout a (mem_outAddrs_of_lowest hlt hlow))
    · omega
    · exact absurd hgood hbad

/-- The commands that append and set nothing else but STATUS. -/
def onlyAppends : Instr → Bool
  | .extract | .centroid | .atan2 | .describe => true
  | .detect | .score | .extractBkt | .gridBucket | .gridReduce | .gridIndex | .gridQuery => false

/-- What such a command does without: a grid to find, marks to write, and anything to do before or after its work. -/
structure OnlyAppends (i : Instr) (s : State) : Prop where
  grid : isGridCommand i = false
  marks : writesMarks i = false
  missing : missingGrid s i = none
  start : enteredState i s = s
  finale : finale i s = Cmd.pure ()
  refreshed : ∀ u, refreshed i u = u
  writes : statedWrites s i = outAddrs s.regs (esizeOf i) (wholeOutput s i)

theorem onlyAppends_spec (hi : onlyAppends i = true) (s : State) : OnlyAppends i s := by
  cases i with
  | extract | centroid | atan2 | describe => exact ⟨rfl, rfl, rfl, rfl, rfl, fun _ => rfl, rfl⟩
  | detect | score | extractBkt | gridBucket | gridReduce | gridIndex | gridQuery => cases hi

/-- A command that only appends, whose work finishes, ends in the state its work leaves. -/
theorem exec_of_work_ok {c : Run} {es : List (List Byte)} (hi : onlyAppends i = true) (hlegal : Legal i s)
    (hJ : (wholeJob i s).Safe) (h : work i s (entered i s) = .ok () c) (hes : After (wholeJob i s) es c) :
    exec i s = .next c.st.finish := by
  have honly := onlyAppends_spec hi s
  have hbody : body i s s.begin = .ok () c := by
    rw [body_passes ⟨hlegal, honly.missing⟩, worked, Cmd.bind_ok h, honly.finale, Cmd.pure_apply]
  rw [exec_eq, runCommand_ok hbody fun a hw hr => hJ a (hes.writes a hw) (hes.reads a hr), honly.refreshed]

/-- A command that only appends, with legal registers, usable inputs, admitted addresses, room and footprints apart,
completes. -/
theorem exec_appends {e : Nat} (hi : onlyAppends i = true) (he : elementSize i = some e) (hlegal : Legal i s)
    (hgood : GoodInputs s i) (hadm : AllAdmitted s.params (wholeReads s i)) (hroom : Room s e (wholeOutput s i))
    (hapart : Apart (wholeReads s i) (outAddrs s.regs e (wholeOutput s i))) :
    ∃ t, exec i s = .next t ∧ Appended s t e (wholeOutput s i) (wholeBytes s i) ∧ EndedWell s t := by
  have honly := onlyAppends_spec hi s
  have hm := honly.marks
  have hsize : esizeOf i = e := by rw [esizeOf, he, Option.getD_some]
  have hgrid : isGridCommand i = true → GridOk s := fun h => by cases honly.grid.symm.trans h
  have htotal := length_outputs_whole hlegal honly.missing hgrid hadm
  have hJ := wholeJob_safe_of_apart he hm hlegal htotal (by rwa [honly.writes, hsize])
  obtain ⟨c, hc, hes⟩ := work_finishes hm hlegal hJ hgood hadm (htotal ▸ hroom.1) (by rw [hsize, htotal]; exact hroom.2)
  have hexec := exec_of_work_ok hi hlegal hJ hc hes
  have hother : i ≠ .gridIndex := by rintro rfl; cases hi
  have hindex : c.st.index = s.index := index_of_exec (t := c.st.finish) hother hexec
  have hmemory := hes.memory he
  rw [flatten_outputs_whole hlegal honly.missing hgrid hadm] at hmemory
  have hframe := hes.frame
  rw [show (wholeJob i s).start = s from honly.start, htotal, hindex] at hframe
  refine ⟨_, hexec, ⟨?_, hmemory⟩, ?_⟩ <;> rw [hframe]
  · rfl
  · exact ⟨rfl, rfl⟩

/-! ## CENTROID, ATAN2, DESCRIBE -/

/-- Settles O40: CENTROID only appends. -/
theorem centroidAppendsTheMoments : Obligations.CentroidAppendsTheMoments :=
  fun _ hlegal hmargin hadm hroom hapart => exec_appends rfl rfl hlegal hmargin hadm hroom hapart

/-- Settles O41: ATAN2 only appends, and every input is usable. -/
theorem atan2AppendsTheBins : Obligations.Atan2AppendsTheBins :=
  fun _ hlegal hadm hroom hapart => exec_appends rfl rfl hlegal trivial hadm hroom hapart

/-- Settles O42: DESCRIBE only appends. -/
theorem describeAppendsTheDescriptors : Obligations.DescribeAppendsTheDescriptors :=
  fun _ hlegal hgood hadm hroom hapart => exec_appends rfl rfl hlegal hgood hadm hroom hapart

end Sys2Proof.Proofs
end

section
/-! The corner predicate: the run of nine around the ring as a statement about bits, where the ring may start and which
way it may be walked, and rings with no dark and no light pixel (40_fast_detect R121 to R123, R128). -/

namespace Sys2Proof.Proofs

open Sys2Proof.Machine Sys2Proof.Safety

/-! ## The run of nine -/

theorem run9_iff {m : BitVec 16} :
    run9 m = true ↔ ∃ st, st < 16 ∧ ∀ k, k < 9 → m.getLsbD ((st + k) % 16) = true := by
  simp [run9, List.any_eq_true, List.all_eq_true]

/-- A ring whose bit i is bit i + d of another has its runs where the other has them d further on. -/
theorem run9_of_shifted {m m' : BitVec 16} (d : Nat) (hbits : ∀ i, i < 16 → m'.getLsbD i = m.getLsbD ((i + d) % 16))
    (h : run9 m' = true) : run9 m = true := by
  obtain ⟨st, _, hrun⟩ := run9_iff.mp h
  refine run9_iff.mpr ⟨(st + d) % 16, Nat.mod_lt _ (by decide), fun k hk => ?_⟩
  have hbit := hrun k hk
  rw [hbits _ (Nat.mod_lt _ (by decide))] at hbit
  rwa [show ((st + d) % 16 + k) % 16 = ((st + k) % 16 + d) % 16 by omega]

theorem getLsbD_rotateLeft_ring (m : BitVec 16) (k : Nat) {i : Nat} (hi : i < 16) :
    (m.rotateLeft k).getLsbD i = m.getLsbD ((i + (16 - k % 16)) % 16) := by
  rw [BitVec.getLsbD_rotateLeft, Bool.cond_decide]
  split
  · congr 1
    omega
  · rw [decide_eq_true hi, Bool.true_and]
    congr 1
    omega

theorem run9_rotateLeft (m : BitVec 16) (k : Nat) : run9 (m.rotateLeft k) = run9 m := by
  refine Bool.eq_iff_iff.mpr ⟨run9_of_shifted _ fun _ => getLsbD_rotateLeft_ring m k, ?_⟩
  refine run9_of_shifted (k % 16) fun i hi => ?_
  rw [getLsbD_rotateLeft_ring m k (Nat.mod_lt _ (by decide))]
  congr 1
  omega

/-- A run that ends at bit e of a ring begins at bit 15 - e of the ring reversed. -/
theorem run9_of_reverse {m : BitVec 16} (h : run9 m.reverse = true) : run9 m = true := by
  obtain ⟨st, _, hrun⟩ := run9_iff.mp h
  refine run9_iff.mpr ⟨15 - (st + 8) % 16, by omega, fun k hk => ?_⟩
  have hbit := hrun (8 - k) (by omega)
  rw [BitVec.getLsbD_reverse, BitVec.getMsbD, Bool.and_eq_true] at hbit
  rw [show (15 - (st + 8) % 16 + k) % 16 = 16 - 1 - (st + (8 - k)) % 16 by omega]
  exact hbit.2

theorem run9_reverse (m : BitVec 16) : run9 m.reverse = run9 m :=
  Bool.eq_iff_iff.mpr ⟨run9_of_reverse, fun h => run9_of_reverse (by rwa [BitVec.reverse_reverse_eq])⟩

/-! ## The masks -/

theorem getLsbD_maskOf {n : Nat} (bits : List Bool) {j : Nat} (hj : j < n) :
    (maskOf n bits).getLsbD j = bits.getD j false := by
  rw [maskOf, BitVec.getLsbD_ofNat, testBit_foldr_bits, decide_eq_true hj, Bool.true_and]

/-- The mask of a bit computed from each ring pixel has a run of nine where nine ring pixels in a row have the bit. -/
theorem run9_maskOf_map {α : Type} {f : α → Bool} {ring : List α} (d : α) (hlen : ring.length = 16) :
    run9 (maskOf 16 (ring.map f)) = true ↔ ∃ st, st < 16 ∧ ∀ k, k < 9 → f (ring.getD ((st + k) % 16) d) = true := by
  have hbit (i : Nat) : (maskOf 16 (ring.map f)).getLsbD (i % 16) = f (ring.getD (i % 16) d) := by
    have hi : i % 16 < 16 := Nat.mod_lt _ (by decide)
    rw [getLsbD_maskOf _ hi, List.getD_eq_getElem _ _ (by rwa [List.length_map, hlen]),
      List.getD_eq_getElem _ _ (by rwa [hlen]), List.getElem_map]
  simp only [run9_iff, hbit]

theorem run9_maskOf_eq_false {bits : List Bool} (h : ∀ b ∈ bits, b = false) : run9 (maskOf 16 bits) = false := by
  refine Bool.eq_false_iff.mpr fun hrun => ?_
  obtain ⟨st, _, hbits⟩ := run9_iff.mp hrun
  have hbit := hbits 0 (by decide)
  rw [getLsbD_maskOf _ (Nat.mod_lt _ (by decide)), getD_of_forall_mem h rfl] at hbit
  cases hbit

/-- Without a dark and without a light ring pixel there is no corner. -/
theorem isCorner_eq_false {cmp : FastCmp} {t : Nat} {c : Byte} {ring : List Byte}
    (hdark : ∀ p ∈ ring, darkBit cmp (darkLevel c t) p = false)
    (hlight : ∀ p ∈ ring, lightBit cmp (lightLevel c t) p = false) : isCorner cmp t c ring = false := by
  rw [isCorner, darkMask, lightMask, run9_maskOf_eq_false (List.forall_mem_map.mpr hdark),
    run9_maskOf_eq_false (List.forall_mem_map.mpr hlight), Bool.or_false]

theorem darkBit_strict_eq_false {dark : Nat} {p : Byte} (h : dark ≤ p.toNat) : darkBit .strict dark p = false :=
  decide_eq_false (Nat.not_lt.mpr h)

theorem lightBit_strict_eq_false {light : Nat} {p : Byte} (h : p.toNat ≤ light) : lightBit .strict light p = false :=
  decide_eq_false (Nat.not_lt.mpr h)

theorem le_lightLevel {c p : Byte} {t : Nat} (h : p.toNat ≤ c.toNat + t) : p.toNat ≤ lightLevel c t :=
  le_min h (Nat.le_of_lt_succ p.isLt)

/-- Settles O43: a run is moved by a rotation and turned by a reversal; no ring pixel is below the dark level or above
the light level, which are 0 and 255 at T = 255, and have the centre between them. -/
theorem cornerPredicateSymmetryAndExtremes : Obligations.CornerPredicateSymmetryAndExtremes := by
  refine ⟨run9_rotateLeft, run9_reverse, fun c ring => ?_, fun t c n => ?_⟩
  · refine isCorner_eq_false (fun p _ => darkBit_strict_eq_false ?_)
      (fun p _ => lightBit_strict_eq_false (le_lightLevel ?_))
    · have hc := c.isLt
      rw [darkLevel]
      omega
    · have hp := p.isLt
      omega
  · refine isCorner_eq_false (fun p hp => darkBit_strict_eq_false ?_)
      (fun p hp => lightBit_strict_eq_false (le_lightLevel ?_)) <;> rw [List.eq_of_mem_replicate hp]
    · exact Nat.sub_le _ _
    · exact Nat.le_add_right _ _

end Sys2Proof.Proofs
end

section
/-! DETECT as a list of byte writes: the work of a command that only stores bytes which its first state decides, and the
marks and edge bytes of DETECT (40_fast_detect R121 to R126). -/

namespace Sys2Proof.Proofs

open Sys2Proof.Machine Sys2Proof.Safety

variable {α : Type} {s : State} {as : List Int} {ws ws' : List (Int × Byte)}

/-! ## A list of byte writes -/

/-- The memory after bytes are written one after another. -/
def writeAll (m : Memory) (ws : List (Int × Byte)) : Memory := ws.foldl (fun m w => Memory.write m w.1.toNat w.2) m

theorem writeAll_append (m : Memory) (ws ws' : List (Int × Byte)) :
    writeAll m (ws ++ ws') = writeAll (writeAll m ws) ws' := List.foldl_append

/-- An address that is written, with one value only, holds it; so does one not written that held it before. -/
theorem read_writeAll {m : Memory} {a : Nat} {v : Byte} (hsame : ∀ w ∈ ws, w.1.toNat = a → w.2 = v)
    (hwritten : Memory.read m a = v ∨ ∃ w ∈ ws, w.1.toNat = a) : Memory.read (writeAll m ws) a = v := by
  induction ws generalizing m with
  | nil => simpa [writeAll] using hwritten
  | cons w ws ih =>
    refine ih (fun u hu => hsame u (List.mem_cons_of_mem w hu)) ?_
    rw [Memory.read_write]
    split
    next ha => exact .inl (hsame w List.mem_cons_self ha.symm)
    next ha => exact hwritten.imp_right fun ⟨u, hu, hua⟩ =>
      ⟨u, (List.mem_cons.mp hu).resolve_left fun h => ha (h ▸ hua.symm), hua⟩

/-! ## Parts that store bytes -/

/-- While no byte of `s` outside `as` differs, a part writes just the bytes `ws`, to addresses in `as`, and ends
well. -/
structure Stores (s : State) (as : List Int) (x : Cmd Unit) (ws : List (Int × Byte)) : Prop where
  spares : Spares s as x
  ok : ∀ c, c.st.params = s.params → SameOutside s as c.st →
    x c = .ok () { c with st := { c.st with mem := writeAll c.st.mem ws } }

theorem Stores.pure : Stores s as (Cmd.pure ()) [] := ⟨.of_quiet .pure, fun _ _ _ => rfl⟩

theorem Stores.bind {x y : Cmd Unit} (hx : Stores s as x ws) (hy : Stores s as y ws') :
    Stores s as (Cmd.bind x fun _ => y) (ws ++ ws') := by
  refine ⟨.bind hx.spares fun _ => hy.spares, fun c hp hc => ?_⟩
  have hok := hx.ok c hp hc
  rw [Cmd.bind_ok hok, writeAll_append]
  exact hy.ok _ hp ((hx.spares c hc).ok hok)

theorem Stores.forList {f : α → Cmd Unit} {l : List α} {ws : α → List (Int × Byte)}
    (hf : ∀ a ∈ l, Stores s as (f a) (ws a)) : Stores s as (Cmd.forList l f) (l.flatMap ws) := by
  induction l with
  | nil => exact .pure
  | cons a l ih => exact .bind (hf a List.mem_cons_self) (ih fun b hb => hf b (List.mem_cons_of_mem a hb))

theorem Stores.memWriteByte {a : Int} {v : Byte} (ha : a ∈ as) (hadm : admitted s.params a = true) :
    Stores s as (memWrite a [v]) [(a, v)] := by
  refine ⟨.memWriteByte ha, fun c hp _ => memWrite_ok fun i hi => ?_⟩
  obtain rfl : i = 0 := by simpa using hi
  rwa [hp, Nat.cast_zero, add_zero]

/-- Reads outside the written addresses give the bytes of `s`. -/
theorem Stores.readUnordered {rs : List Int} {f : List Byte → Cmd Unit} (hadm : AllAdmitted s.params rs)
    (hout : ∀ a ∈ rs, a ∉ as) (hspares : ∀ bs, Spares s as (f bs))
    (hf : Stores s as (f (rs.map (byteAt s.mem))) ws) : Stores s as (Cmd.bind (readUnordered rs) f) ws := by
  refine ⟨.bind (.of_quiet .readUnordered) hspares, fun c hp hc => ?_⟩
  have hbytes : (rs.map fun a => Memory.read c.st.mem a.toNat) = rs.map (byteAt s.mem) := by
    refine List.map_congr_left fun a ha => hc _ ?_
    rw [Int.toNat_of_nonneg (admitted_bounds (hadm a ha)).1]
    exact hout a ha
  rw [Cmd.bind_ok (readUnordered_ok (hp.symm ▸ hadm)), hbytes]
  exact hf.ok c hp hc

/-! ## The bytes that DETECT writes -/

/-- The mark of a cell and its address. -/
def cornerWrite (s : State) (x y : Nat) : Int × Byte :=
  (markAddr s.regs x y, markOfBytes s.params s.regs ((ringAddrs s.params s.regs x y).map (byteAt s.mem)))

/-- What DETECT writes in row y: its marks, then its edge bytes. -/
def rowWrites (s : State) (y : Nat) : List (Int × Byte) :=
  ((List.range' s.regs.border.toNat (innerExtent s.regs.width s.regs.border)).flatMap fun x => [cornerWrite s x y]) ++
    (rowEdges s.regs y).map fun a => (a, 0)

/-- Everything DETECT writes. -/
def detectWrites (s : State) : List (Int × Byte) :=
  (List.range' s.regs.border.toNat (innerExtent s.regs.height s.regs.border)).flatMap (rowWrites s)

theorem mem_detectWrites {w : Int × Byte} :
    w ∈ detectWrites s ↔
      (∃ c ∈ regionCells s.regs, w = cornerWrite s c.1 c.2) ∨ ∃ a ∈ edgeAddrs s.regs, w = (a, 0) := by
  simp only [detectWrites, rowWrites, edgeAddrs_eq, regionCells, List.mem_flatMap, List.mem_append, List.mem_map,
    List.mem_singleton]
  constructor
  · rintro ⟨y, hy, ⟨x, hx, rfl⟩ | ⟨a, ha, rfl⟩⟩
    · exact .inl ⟨_, ⟨y, hy, x, hx, rfl⟩, rfl⟩
    · exact .inr ⟨a, ⟨y, hy, ha⟩, rfl⟩
  · rintro (⟨_, ⟨y, hy, x, hx, rfl⟩, rfl⟩ | ⟨a, ⟨y, hy, ha⟩, rfl⟩)
    · exact ⟨y, hy, .inl ⟨x, hx, rfl⟩⟩
    · exact ⟨y, hy, .inr ⟨a, ha, rfl⟩⟩

/-! ## The addresses of DETECT -/

theorem pixAddr_natCast (r : ParamRegs) (x y : Nat) :
    pixAddr r x y = ((r.imgBase.toNat + y * r.stride.toNat + x : Nat) : Int) := by
  simp [pixAddr, cellAddr]

/-- The pixels at most 3 columns and 3 rows from the region are in the stated read footprint (R126). -/
theorem pixAddr_mem_detectRect {r : ParamRegs} {c : Nat × Nat} {dx dy : Int} (hb : 3 ≤ r.border.toNat)
    (hc : c ∈ regionCells r) (hx : -3 ≤ dx ∧ dx ≤ 3) (hy : -3 ≤ dy ∧ dy ≤ 3) :
    pixAddr r (c.1 + dx) (c.2 + dy) ∈ detectRect r := by
  obtain ⟨⟨hcx, hcx'⟩, hcy, hcy'⟩ := mem_regionCells.mp hc
  obtain ⟨px, hpx⟩ := Int.eq_ofNat_of_zero_le (show 0 ≤ (c.1 : Int) + dx by omega)
  obtain ⟨py, hpy⟩ := Int.eq_ofNat_of_zero_le (show 0 ≤ (c.2 : Int) + dy by omega)
  rw [hpx, hpy, pixAddr_natCast, mem_detectRect, detectReadSpans, if_neg (by omega), if_neg (by omega), covers_map]
  refine ⟨py, List.mem_range'_1.mpr (by omega), ?_⟩
  simp only [Span.Has, pixAddr_natCast, Int.toNat_natCast]
  omega

theorem ringAddrs_subset_detectRect {p : Params} {r : ParamRegs} {c : Nat × Nat} {a : Int}
    (hring : ringWf p.ring = true) (hb : 3 ≤ r.border.toNat) (hc : c ∈ regionCells r)
    (ha : a ∈ ringAddrs p r c.1 c.2) : a ∈ detectRect r := by
  rcases List.mem_cons.mp ha with rfl | ha
  · simpa using pixAddr_mem_detectRect (dx := 0) (dy := 0) hb hc (by decide) (by decide)
  · obtain ⟨d, hd, rfl⟩ := List.mem_map.mp ha
    simp only [ringWf, Bool.and_eq_true, List.all_eq_true, between_iff] at hring
    obtain ⟨_, hall⟩ := hring
    obtain ⟨hdx, hdy⟩ := hall d hd
    exact pixAddr_mem_detectRect hb hc hdx hdy

theorem mem_rowEdges {r : ParamRegs} {y : Nat} {a : Int} :
    a ∈ rowEdges r y ↔ r.width.toNat % 16 ≠ 0 ∧
      ∃ e, e < 2 ∧ a = ((r.marksBase.toNat + y * r.stride.toNat + (r.width.toNat + e) : Nat) : Int) := by
  simp only [← markAddr_natCast]
  unfold rowEdges
  split
  next hw => simp [hw]
  next hw =>
    simp only [List.mem_cons, List.not_mem_nil, or_false, ne_eq, hw, not_false_eq_true, true_and]
    constructor
    · rintro (rfl | rfl)
      · exact ⟨0, by decide, rfl⟩
      · exact ⟨1, by decide, rfl⟩
    · rintro ⟨e, he, rfl⟩
      obtain rfl | rfl : e = 0 ∨ e = 1 := by omega
      · exact .inl rfl
      · exact .inr rfl

/-- The declared write footprint holds nothing but the marks of the region and the edge bytes (R126). -/
theorem mem_of_covers_detectWriteSpans {r : ParamRegs} {a : Nat} (h : Covers (detectWriteSpans r) a) :
    (a : Int) ∈ regionMarks r ++ edgeAddrs r := by
  obtain ⟨y, hy, h⟩ := covers_flatMap.mp h
  rw [covers_cons] at h
  rcases h with ⟨hlo, hhi⟩ | h
  · simp only [markAddr_natCast, Int.toNat_natCast] at hlo hhi
    refine List.mem_append_left _ (List.mem_map.mpr
      ⟨(a - (r.marksBase.toNat + y * r.stride.toNat), y), mem_regionCells.mpr ⟨?_, List.mem_range'_1.mp hy⟩, ?_⟩)
    · dsimp only
      omega
    · rw [markAddr_natCast]
      dsimp only
      omega
  · split at h
    next => exact absurd h (covers_nil a)
    next hw =>
      rw [covers_singleton, markAddr_natCast, Int.toNat_natCast] at h
      refine List.mem_append_right _ (edgeAddrs_eq r ▸ List.mem_flatMap.mpr ⟨y, hy, mem_rowEdges.mpr ⟨hw, ?_⟩⟩)
      exact ⟨a - (r.marksBase.toNat + y * r.stride.toNat + r.width.toNat), by omega, by omega⟩

/-- No edge byte is a mark of the region, of its row or of another, as the region keeps its border (R125). -/
theorem markAddr_ne_edge {r : ParamRegs} (hstride : r.width.toNat ≤ r.stride.toNat) (hb : 3 ≤ r.border.toNat)
    {c : Nat × Nat} (hc : c ∈ regionCells r) {a : Int} (ha : a ∈ edgeAddrs r) :
    (markAddr r c.1 c.2).toNat ≠ a.toNat := by
  rw [edgeAddrs_eq] at ha
  obtain ⟨y, _, ha⟩ := List.mem_flatMap.mp ha
  obtain ⟨_, e, he, rfl⟩ := mem_rowEdges.mp ha
  obtain ⟨⟨hx, hx'⟩, _⟩ := mem_regionCells.mp hc
  rw [innerExtent] at hx'
  rw [markAddr_natCast, Int.toNat_natCast, Int.toNat_natCast]
  rcases Nat.lt_trichotomy c.2 y with hlt | heq | hgt
  · have hrows := Nat.mul_le_mul_right r.stride.toNat hlt
    rw [Nat.succ_mul] at hrows
    omega
  · rw [heq]
    omega
  · have hrows := Nat.mul_le_mul_right r.stride.toNat hgt
    rw [Nat.succ_mul] at hrows
    omega

/-! ## The corner predicate -/

/-- The corner predicate is that of the ring's bytes. -/
theorem corner_iff {x y : Int} (hring : ringWf s.params.ring = true) :
    Corner s x y ↔ isCorner s.params.fastCmp s.regs.fastT.toNat (pixel s x y)
      (s.params.ring.map fun d => pixel s (x + d.1) (y + d.2)) = true := by
  rw [ringWf, Bool.and_eq_true, decide_eq_true_eq] at hring
  obtain ⟨hlen, _⟩ := hring
  rw [isCorner, Bool.or_eq_true, darkMask, lightMask, List.map_map, List.map_map,
    run9_maskOf_map (0, 0) hlen, run9_maskOf_map (0, 0) hlen, ← exists_or]
  simp only [Corner, ringPixel, Function.comp_apply, and_or_left]

theorem cornerWrite_eq (s : State) (x y : Nat) :
    cornerWrite s x y = (markAddr s.regs x y, cornerMark (isCorner s.params.fastCmp s.regs.fastT.toNat (pixel s x y)
      (s.params.ring.map fun d => pixel s (x + d.1) (y + d.2)))) := by
  rw [cornerWrite, ringAddrs, List.map_cons, List.map_map]
  rfl

theorem cornerWrite_of_corner {x y : Nat} (hring : ringWf s.params.ring = true) :
    (Corner s x y → (cornerWrite s x y).2 = 0xFF) ∧ (¬ Corner s x y → (cornerWrite s x y).2 = 0x00) := by
  rw [corner_iff hring, cornerWrite_eq]
  exact ⟨fun h => if_pos h, fun h => if_neg h⟩

/-! ## DETECT completes -/

/-- What DETECT needs to complete. -/
structure Detects (s : State) : Prop where
  ring : ringWf s.params.ring = true
  legal : Legal .detect s
  admitted : AllAdmitted s.params (detectReads s.params s.regs ++ regionMarks s.regs ++ edgeAddrs s.regs)
  apart : Apart (detectRect s.regs) (regionMarks s.regs ++ edgeAddrs s.regs)

theorem stride_of_detect (h : Legal .detect s) : s.regs.width.toNat ≤ s.regs.stride.toNat :=
  Nat.not_lt.mp (of_decide_eq_false (not_bad_of_legal h
    (k := (decide (s.regs.stride.toNat < s.regs.width.toNat), 0x018)) (by simp [paramChecks, rasterChecks])))

theorem detectPixel_stores (h : Detects s) {x y : Nat} (hc : (x, y) ∈ regionCells s.regs) :
    Stores s (regionMarks s.regs ++ edgeAddrs s.regs) (detectPixel s.params s.regs y x) [cornerWrite s x y] := by
  have hmark : markAddr s.regs x y ∈ regionMarks s.regs := List.mem_map.mpr ⟨(x, y), hc, rfl⟩
  have hring (a : Int) (ha : a ∈ ringAddrs s.params s.regs x y) : a ∈ detectRect s.regs :=
    ringAddrs_subset_detectRect h.ring (border_of_detect h.legal) hc ha
  refine .readUnordered (fun a ha => h.admitted a ?_) (fun a ha hw => h.apart a hw (hring a ha))
    (fun _ => .memWriteByte (List.mem_append_left _ hmark)) (.memWriteByte (List.mem_append_left _ hmark)
      (h.admitted _ (List.mem_append_left _ (List.mem_append_right _ hmark))))
  exact List.mem_append_left _ (List.mem_append_left _ (List.mem_flatMap.mpr ⟨(x, y), hc, ha⟩))

theorem detectEdge_stores (h : Detects s) {y : Nat}
    (hy : y ∈ List.range' s.regs.border.toNat (innerExtent s.regs.height s.regs.border)) :
    Stores s (regionMarks s.regs ++ edgeAddrs s.regs) (detectEdge s.regs y)
      ((rowEdges s.regs y).map fun a => (a, 0)) := by
  have hedge {a : Int} (ha : a ∈ rowEdges s.regs y) :
      Stores s (regionMarks s.regs ++ edgeAddrs s.regs) (memWrite a [0]) [(a, 0)] := by
    have ha : a ∈ edgeAddrs s.regs := edgeAddrs_eq s.regs ▸ List.mem_flatMap.mpr ⟨y, hy, ha⟩
    exact .memWriteByte (List.mem_append_right _ ha) (h.admitted a (List.mem_append_right _ ha))
  unfold rowEdges at hedge ⊢
  unfold detectEdge
  split
  next => exact .pure
  next hw =>
    simp only [hw, if_false] at hedge
    exact .bind (hedge List.mem_cons_self) (hedge (List.mem_cons_of_mem _ List.mem_cons_self))

theorem detect_work_stores (h : Detects s) :
    Stores s (regionMarks s.regs ++ edgeAddrs s.regs) (work .detect s) (detectWrites s) := by
  dsimp only [work]
  rw [forRange_eq_forList]
  refine .forList fun y hy => ?_
  unfold detectRow
  rw [forRange_eq_forList]
  exact .bind (.forList fun x hx => detectPixel_stores h
    (mem_regionCells.mpr ⟨List.mem_range'_1.mp hx, List.mem_range'_1.mp hy⟩)) (detectEdge_stores h hy)

/-- DETECT writes its bytes, and then records its end. -/
theorem exec_detect (h : Detects s) :
    exec .detect s = .next ({ s with mem := writeAll s.mem (detectWrites s) }.finish) := by
  have hwork := (detect_work_stores h).ok (entered .detect s) rfl fun _ _ => rfl
  have hbody := (body_passes (i := .detect) ⟨h.legal, rfl⟩).trans (Cmd.bind_ok hwork)
  rw [exec_eq, runCommand_ok hbody fun a hw hr =>
    h.apart a (mem_of_covers_detectWriteSpans hw) (mem_detectRect.mpr hr)]
  rfl

/-- A mark of the region keeps what is written for its cell: no other write of DETECT has its address. -/
theorem mark_after_detect (h : Detects s) {c : Nat × Nat} (hc : c ∈ regionCells s.regs) :
    Memory.read (writeAll s.mem (detectWrites s)) (markAddr s.regs c.1 c.2).toNat = (cornerWrite s c.1 c.2).2 := by
  refine read_writeAll (fun w hw ha => ?_) (.inr ⟨_, mem_detectWrites.mpr (.inl ⟨c, hc, rfl⟩), rfl⟩)
  rcases mem_detectWrites.mp hw with ⟨d, hd, rfl⟩ | ⟨a, hedge, rfl⟩
  · rw [markAddr_inj (stride_of_detect h.legal) hd hc ha]
  · exact absurd ha.symm (markAddr_ne_edge (stride_of_detect h.legal) (border_of_detect h.legal) hc hedge)

theorem edge_after_detect (h : Detects s) {a : Int} (ha : a ∈ edgeAddrs s.regs) :
    Memory.read (writeAll s.mem (detectWrites s)) a.toNat = 0 := by
  refine read_writeAll (fun w hw haddr => ?_) (.inr ⟨_, mem_detectWrites.mpr (.inr ⟨a, ha, rfl⟩), rfl⟩)
  rcases mem_detectWrites.mp hw with ⟨c, hc, rfl⟩ | ⟨_, _, rfl⟩
  · exact absurd haddr (markAddr_ne_edge (stride_of_detect h.legal) (border_of_detect h.legal) hc ha)
  · rfl

/-- Settles O32: DETECT is its list of writes, no two of which give one address different bytes; the frame is O21's. -/
theorem detectMarksTheCorners : Obligations.DetectMarksTheCorners := by
  intro s hring hlegal hadm hapart
  have h : Detects s := ⟨hring, hlegal, hadm, hapart⟩
  have hexec := exec_detect h
  obtain ⟨_, hframe, _, _⟩ := markAndGridCommandsFrame
  refine ⟨_, hexec, rfl, fun c hc => ?_, fun a ha => edge_after_detect h ha, hframe s _ hexec⟩
  have hmark : mark ({ s with mem := writeAll s.mem (detectWrites s) } : State).finish c.1 c.2 =
      (cornerWrite s c.1 c.2).2 := mark_after_detect h hc
  rw [hmark]
  exact cornerWrite_of_corner hring

end Sys2Proof.Proofs
end

section
/-! SCORE as a list of byte writes: each mark that is not 0 becomes the score of its patch (41_harris_score R145, R147,
R148). -/

namespace Sys2Proof.Proofs

open Sys2Proof.Machine Sys2Proof.Safety

variable {s : State} {c : Run}

/-! ## The bytes that SCORE writes -/

/-- The score of a cell's patch and the address of its mark. -/
def markScore (s : State) (d : Nat × Nat) : Int × Byte :=
  (markAddr s.regs d.1 d.2, harrisOfPatch s.params s.regs.harrisT.toInt (patchOf s d.1 d.2))

/-- What SCORE writes at a cell: the score of its patch, unless its mark is 0. -/
def cellRewrite (s : State) (d : Nat × Nat) : List (Int × Byte) :=
  if mark s d.1 d.2 = 0 then [] else [markScore s d]

/-- Everything SCORE writes. -/
def markRewrites (s : State) : List (Int × Byte) := (regionCells s.regs).flatMap (cellRewrite s)

theorem mem_markRewrites {w : Int × Byte} : w ∈ markRewrites s ↔ ∃ d ∈ markedCells s, w = markScore s d := by
  simp only [markRewrites, cellRewrite, markedCells, List.mem_flatMap, List.mem_filter, decide_eq_true_eq]
  refine exists_congr fun d => ?_
  rw [and_assoc]
  by_cases hm : mark s d.1 d.2 = 0 <;> simp [hm]

/-! ## SCORE completes -/

/-- What SCORE needs to complete. -/
structure Scores (s : State) : Prop where
  legal : Legal .score s
  admitted : AllAdmitted s.params (regionMarks s.regs ++ scoreReads s)
  apart : Apart (scoreReads s) (scoreWrites s)

theorem Scores.marks_admitted (h : Scores s) : AllAdmitted s.params (regionMarks s.regs) :=
  fun a ha => h.admitted a (List.mem_append_left _ ha)

/-- A marked cell gets the score of its patch, whose pixels SCORE does not write. -/
theorem rewriteMark_stores (h : Scores s) {d : Nat × Nat} (hd : d ∈ markedCells s) :
    Stores s (scoreWrites s)
      (Cmd.bind (readUnordered (patchAddrs s.params s.regs d.1 d.2)) fun patch =>
        memWrite (markAddr s.regs d.1 d.2) [harrisOfPatch s.params s.regs.harrisT.toInt patch])
      [markScore s d] := by
  have hwrite : markAddr s.regs d.1 d.2 ∈ scoreWrites s := List.mem_map_of_mem hd
  have hread (a : Int) (ha : a ∈ patchAddrs s.params s.regs d.1 d.2) : a ∈ scoreReads s :=
    List.mem_flatMap.mpr ⟨d, hd, ha⟩
  exact .readUnordered (fun a ha => h.admitted a (List.mem_append_right _ (hread a ha)))
    (fun a ha hw => h.apart a hw (hread a ha)) (fun _ => .memWriteByte hwrite)
    (.memWriteByte hwrite (h.marks_admitted _ (List.mem_map_of_mem (List.mem_filter.mp hd).1)))

/-- A cell whose mark is still the one SCORE began with. -/
theorem scorePixel_ok (h : Scores s) {d : Nat × Nat} {rest : List (Nat × Nat)} (hd : d ∈ regionCells s.regs)
    (hkept : MarksKept s (d :: rest) c) (hout : SameOutside s (scoreWrites s) c.st) :
    scorePixel s.params s.regs d.2 d.1 c =
      .ok () { c with st := { c.st with mem := writeAll c.st.mem (cellRewrite s d) } } := by
  obtain ⟨hparams, hmarks⟩ := hkept
  have hread := memReadByte_ok (c := c) (hparams.symm ▸ h.marks_admitted _ (List.mem_map_of_mem hd))
  rw [hmarks d List.mem_cons_self] at hread
  unfold scorePixel cellRewrite
  rw [Cmd.bind_ok hread]
  split
  next => rfl
  next hm => exact (rewriteMark_stores h (List.mem_filter.mpr ⟨hd, decide_eq_true hm⟩)).ok c hparams hout

/-- The cells from any one on. No cell disturbs the mark of a later one. -/
theorem scoreCells_ok (h : Scores s) {rest : List (Nat × Nat)} (hsuf : rest <:+ regionCells s.regs)
    (hkept : MarksKept s rest c) (hout : SameOutside s (scoreWrites s) c.st) :
    Cmd.forList rest (fun d => scorePixel s.params s.regs d.2 d.1) c =
      .ok () { c with st := { c.st with mem := writeAll c.st.mem (rest.flatMap (cellRewrite s)) } } := by
  induction rest generalizing c with
  | nil => rfl
  | cons d rest ih =>
    have hd : d ∈ regionCells s.regs := hsuf.subset List.mem_cons_self
    have hok := scorePixel_ok h hd hkept hout
    have hasked := scorePixel_asked h.legal hsuf hkept
    rw [hok] at hasked
    obtain ⟨_, hkept'⟩ | _ := hasked
    rw [Cmd.forList, Cmd.bind_ok hok, List.flatMap_cons, writeAll_append]
    exact ih ((List.suffix_cons d rest).trans hsuf) hkept' ((scorePixel_spares hd c hout).ok hok)

/-- SCORE writes its bytes, and then records its end. -/
theorem exec_score (h : Scores s) :
    exec .score s = .next ({ s with mem := writeAll s.mem (markRewrites s) }.finish) := by
  have hwork := scoreCells_ok h List.suffix_rfl (marksKept_entered s) fun _ _ => rfl
  rw [← score_work_eq] at hwork
  have hbody := (body_passes (i := .score) ⟨h.legal, rfl⟩).trans (Cmd.bind_ok hwork)
  rw [exec_eq, runCommand_ok hbody fun a hw hr => h.apart a ((scoreWriteSpans_eq h.marks_admitted).mp hw)
    ((scoreReadSpans_eq h.marks_admitted).mp hr)]
  rfl

/-- A marked cell keeps its score: no other write of SCORE has its address. -/
theorem mark_after_score (h : Scores s) {d : Nat × Nat} (hd : d ∈ markedCells s) :
    Memory.read (writeAll s.mem (markRewrites s)) (markAddr s.regs d.1 d.2).toNat = (markScore s d).2 := by
  refine read_writeAll (fun w hw ha => ?_) (.inr ⟨_, mem_markRewrites.mpr ⟨d, hd, rfl⟩, rfl⟩)
  obtain ⟨e, he, rfl⟩ := mem_markRewrites.mp hw
  rw [markAddr_inj (stride_of_score h.legal) (List.mem_filter.mp he).1 (List.mem_filter.mp hd).1 ha]

/-- Settles O33: SCORE is its list of writes, one for each marked cell; the frame is O21's. -/
theorem scoreRewritesTheMarks : Obligations.ScoreRewritesTheMarks := by
  intro s hlegal hadm hapart
  have h : Scores s := ⟨hlegal, hadm, hapart⟩
  have hexec := exec_score h
  obtain ⟨_, _, hframe, _⟩ := markAndGridCommandsFrame
  exact ⟨_, hexec, rfl, fun d hd => mark_after_score h hd, hframe s _ hexec⟩

end Sys2Proof.Proofs
end

section
/-! The Harris response under the default gradient: the gradients of a patch are small enough that no wrap changes it,
and a flat patch or a vertical edge has nothing to score (41_harris_score R141 to R144, R150). -/

namespace Sys2Proof.Proofs

open Sys2Proof.Machine

/-! ## Sums of products -/

theorem sumOver_eq_zero {α : Type} {f : α → Int} {l : List α} (h : ∀ a ∈ l, f a = 0) : sumOver f l = 0 := by
  induction l with
  | nil => rfl
  | cons a l ih =>
    rw [sumOver, h a List.mem_cons_self, ih fun b hb => h b (List.mem_cons_of_mem a hb)]
    rfl

theorem sumOver_nonneg {α : Type} {f : α → Int} {l : List α} (h : ∀ a ∈ l, 0 ≤ f a) : 0 ≤ sumOver f l := by
  induction l with
  | nil => exact le_rfl
  | cons a l ih => exact add_nonneg (h a List.mem_cons_self) (ih fun b hb => h b (List.mem_cons_of_mem a hb))

/-- Ixx + Iyy over gradients none of which is longer than k allows. -/
theorem sumOver_squares_le {k : Int} {gs : List (Int × Int)} (h : ∀ d ∈ gs, d.1 * d.1 + d.2 * d.2 ≤ k) :
    sumOver (fun d => d.1 * d.1) gs + sumOver (fun d => d.2 * d.2) gs ≤ k * gs.length := by
  induction gs with
  | nil => simp [sumOver]
  | cons d gs ih =>
    have hd := h d List.mem_cons_self
    have hgs := ih fun e he => h e (List.mem_cons_of_mem d he)
    rw [List.length_cons]
    push_cast
    simp only [sumOver]
    linarith

/-- Ixy is at most the mean of Ixx and Iyy, whatever its sign. -/
theorem abs_two_mul_sumOver_le (gs : List (Int × Int)) :
    |2 * sumOver (fun d => d.1 * d.2) gs| ≤ sumOver (fun d => d.1 * d.1) gs + sumOver (fun d => d.2 * d.2) gs := by
  induction gs with
  | nil => simp [sumOver]
  | cons d gs ih =>
    have hminus := sq_nonneg (d.1 - d.2)
    have hplus := sq_nonneg (d.1 + d.2)
    simp only [sumOver, abs_le] at ih ⊢
    obtain ⟨hlo, hhi⟩ := ih
    constructor <;> linarith

/-! ## The gradients of a patch -/

theorem patchAt_bounds (patch : List Byte) (i j : Nat) : 0 ≤ patchAt patch i j ∧ patchAt patch i j ≤ 255 := by
  unfold patchAt
  omega

/-- Sx and Sy are not both extreme: two corner pixels cancel in Sx + Sy, and the other two in Sx - Sy. -/
theorem gradient_bounds (patch : List Byte) (i j : Nat) :
    (sobelX patch i j / 8).natAbs ≤ 128 ∧ (sobelY patch i j / 8).natAbs ≤ 128 ∧
      (sobelX patch i j / 8).natAbs + (sobelY patch i j / 8).natAbs ≤ 193 := by
  have hpixel := patchAt_bounds patch
  have := hpixel (i - 1) (j - 1)
  have := hpixel i (j - 1)
  have := hpixel (i + 1) (j - 1)
  have := hpixel (i - 1) j
  have := hpixel (i + 1) j
  have := hpixel (i - 1) (j + 1)
  have := hpixel i (j + 1)
  have := hpixel (i + 1) (j + 1)
  unfold sobelX sobelY
  omega

theorem mem_windowGradients {g : SobelGrad} {patch : List Byte} {d : Int × Int} :
    d ∈ windowGradients g patch ↔ ∃ j i, (1 ≤ j ∧ j < 7) ∧ (1 ≤ i ∧ i < 7) ∧ d = Machine.gradient g patch i j := by
  simp only [windowGradients, List.mem_flatMap, List.mem_map, List.mem_range'_1]
  constructor
  · rintro ⟨j, hj, i, hi, rfl⟩
    exact ⟨j, i, hj, hi, rfl⟩
  · rintro ⟨j, i, hj, hi, rfl⟩
    exact ⟨j, hj, i, hi, rfl⟩

theorem length_windowGradients (g : SobelGrad) (patch : List Byte) : (windowGradients g patch).length = 36 := by
  simp [windowGradients, List.length_flatMap]

/-- With u, v at most 128 and u + v at most 193, u² + v² is at most 128 (u + v). -/
theorem windowGradients_energy_le {patch : List Byte} {d : Int × Int} (hd : d ∈ windowGradients .floorDiv8 patch) :
    d.1 * d.1 + d.2 * d.2 ≤ 24704 := by
  obtain ⟨j, i, _, _, rfl⟩ := mem_windowGradients.mp hd
  obtain ⟨hx, hy, hsum⟩ := gradient_bounds patch i j
  dsimp only [Machine.gradient]
  rw [← Int.natAbs_mul_self (a := sobelX patch i j / 8), ← Int.natAbs_mul_self (a := sobelY patch i j / 8)]
  have hxx := Nat.mul_le_mul_right (sobelX patch i j / 8).natAbs hx
  have hyy := Nat.mul_le_mul_right (sobelY patch i j / 8).natAbs hy
  omega

/-! ## The response -/

theorem wrapU32_of_bounds {v : Int} (h : 0 ≤ v) (h' : v < 4294967296) : wrapU32 v = v := Int.emod_eq_of_lt h h'

theorem wrapI32_of_bounds {v : Int} (h : -2147483648 ≤ v) (h' : v < 2147483648) : wrapI32 v = v :=
  Int.bmod_eq_of_le (by omega) (by omega)

/-- The response without wraps. -/
def exactResponse (a b c : Int) : Int := (a * b - c * c) - (a + b) * (a + b) / 16

/-- With a trace below 2^16 and |c| at most half of that, no intermediate value leaves its 32 bits. -/
theorem wrapped_response_eq_exact {a b c : Int} (ha : 0 ≤ a) (hb : 0 ≤ b) (hab : a + b < 65536) (hc : |c| ≤ 32768) :
    wrapI32 (wrapI32 (a * b - c * c) - wrapU32 (wrapU32 (a + b) * wrapU32 (a + b)) / 16) = exactResponse a b c := by
  have hdet : 0 ≤ a * b := mul_nonneg ha hb
  have hdet' : a * b ≤ 1073741824 := by nlinarith [sq_nonneg (a - b)]
  have hcc : 0 ≤ c * c := mul_self_nonneg c
  have hcc' : c * c ≤ 1073741824 := by nlinarith [abs_mul_abs_self c, abs_nonneg c]
  have htr : 0 ≤ (a + b) * (a + b) := mul_self_nonneg (a + b)
  have htr' : (a + b) * (a + b) < 4294967296 := by nlinarith
  rw [exactResponse, wrapI32_of_bounds (v := a * b - c * c) (by omega) (by omega),
    wrapU32_of_bounds (v := a + b) (by omega) (by omega), wrapU32_of_bounds htr htr',
    wrapI32_of_bounds (by omega) (by omega)]

/-- Where Ixx + Iyy is below 2^20, so that the shifted trace is below 2^16, the response is exact (R142 to R144). -/
theorem harrisResponse_eq_exact {ixx iyy ixy : Int} (hxx : 0 ≤ ixx) (hyy : 0 ≤ iyy) (henergy : ixx + iyy < 1048576)
    (hxy : |2 * ixy| ≤ ixx + iyy) :
    harrisResponse (wrapU32 ixx) (wrapU32 iyy) (wrapI32 ixy) = exactResponse (ixx / 16) (iyy / 16) (ixy / 16) := by
  obtain ⟨hlo, hhi⟩ := abs_le.mp hxy
  rw [harrisResponse, wrapU32_of_bounds hxx (by omega), wrapU32_of_bounds hyy (by omega),
    wrapI32_of_bounds (v := ixy) (by omega) (by omega)]
  exact wrapped_response_eq_exact (by omega) (by omega) (by omega) (abs_le.mpr ⟨by omega, by omega⟩)

/-- Settles O45: 36 gradients of 24704 each leave Ixx + Iyy below 2^20. -/
theorem harrisResponseDoesNotWrap : Obligations.HarrisResponseDoesNotWrap := by
  intro patch
  have henergy := sumOver_squares_le fun d hd => windowGradients_energy_le (patch := patch) hd
  rw [length_windowGradients] at henergy
  exact harrisResponse_eq_exact (sumOver_nonneg fun d _ => mul_self_nonneg d.1)
    (sumOver_nonneg fun d _ => mul_self_nonneg d.2) (by omega) (abs_two_mul_sumOver_le _)

/-! ## Flat patches and vertical edges -/

/-- Where no gradient has a vertical part, Iyy and Ixy are 0, and the trace is what is left of the response. -/
theorem patchScore_of_no_vertical_gradient {patch : List Byte} (h : ∀ d ∈ windowGradients .floorDiv8 patch, d.2 = 0) :
    patchScore .floorDiv8 patch =
      -((sumOver (fun d : Int × Int => d.1 * d.1) (windowGradients .floorDiv8 patch) / 16) ^ 2 / 16) := by
  have hyy : sumOver (fun d : Int × Int => d.2 * d.2) (windowGradients .floorDiv8 patch) = 0 :=
    sumOver_eq_zero fun d hd => by rw [h d hd, mul_zero]
  have hxy : sumOver (fun d : Int × Int => d.1 * d.2) (windowGradients .floorDiv8 patch) = 0 :=
    sumOver_eq_zero fun d hd => by rw [h d hd, mul_zero]
  rw [harrisResponseDoesNotWrap patch, hyy, hxy]
  simp [sq]

theorem patchScore_nonpos {patch : List Byte} (h : ∀ d ∈ windowGradients .floorDiv8 patch, d.2 = 0) :
    patchScore .floorDiv8 patch ≤ 0 := by
  rw [patchScore_of_no_vertical_gradient h]
  exact neg_nonpos.mpr (Int.ediv_nonneg (sq_nonneg _) (by decide))

theorem patchScore_eq_zero {patch : List Byte} (h : ∀ d ∈ windowGradients .floorDiv8 patch, d = (0, 0)) :
    patchScore .floorDiv8 patch = 0 := by
  rw [patchScore_of_no_vertical_gradient fun d hd => by rw [h d hd], sumOver_eq_zero fun d hd => by rw [h d hd]; rfl]
  rfl

theorem patchAt_replicate (v : Byte) {i j : Nat} (hi : i < 8) (hj : j < 8) :
    patchAt (List.replicate 64 v) i j = v.toNat := by
  rw [patchAt, List.getD_replicate _ (by omega)]

/-- Row j, column i of equal rows laid end to end. -/
theorem getD_flatMap_replicate {row : List Byte} {w : Nat} (hrow : row.length = w) {i : Nat} (hi : i < w) {n j : Nat}
    (hj : j < n) : ((List.replicate n row).flatMap fun r => r).getD (w * j + i) 0 = row.getD i 0 := by
  induction n generalizing j with
  | zero => omega
  | succ n ih =>
    rw [List.replicate_succ, List.flatMap_cons]
    cases j with
    | zero => rw [Nat.mul_zero, Nat.zero_add, List.getD_append _ _ _ _ (by omega)]
    | succ j =>
      rw [Nat.mul_succ, List.getD_append_right _ _ _ _ (by omega), hrow,
        show w * j + w + i - w = w * j + i by omega, ih (by omega)]

theorem patchAt_rows {row : List Byte} (hrow : row.length = 8) {i j : Nat} (hi : i < 8) (hj : j < 8) :
    patchAt ((List.replicate 8 row).flatMap fun r => r) i j = (row.getD i 0).toNat := by
  rw [patchAt, getD_flatMap_replicate hrow hi hj]

/-- Settles O44: by O45, as the gradients of a flat patch are 0 and those of a vertical edge have no vertical part. -/
theorem flatAndEdgePatchesScoreNothing : Obligations.FlatAndEdgePatchesScoreNothing := by
  refine ⟨fun v => patchScore_eq_zero fun d hd => ?_, fun row hrow => patchScore_nonpos fun d hd => ?_⟩
  · obtain ⟨j, i, hj, hi, rfl⟩ := mem_windowGradients.mp hd
    simp (disch := omega) only [Machine.gradient, sobelX, sobelY, patchAt_replicate]
    simp
  · obtain ⟨j, i, hj, hi, rfl⟩ := mem_windowGradients.mp hd
    simp (disch := omega) only [Machine.gradient, sobelY, patchAt_rows hrow]
    simp

end Sys2Proof.Proofs
end

section
/-! The mini-float of a positive score: the binary32 encoding as its exponent's part and a rounded significand, and the
top bits that the mini-float keeps (00_scope R11, 41_harris_score R146). -/

namespace Sys2Proof.Proofs

open Sys2Proof.Machine

/-! ## Rounding to nearest -/

theorem roundShift_mono {m n : Nat} (h : m ≤ n) (k : Nat) : roundShift m k false ≤ roundShift n k false := by
  have hq : m / 2 ^ k ≤ n / 2 ^ k := Nat.div_le_div_right h
  have hm := Nat.div_add_mod m (2 ^ k)
  have hn := Nat.div_add_mod n (2 ^ k)
  simp only [roundShift, Bool.or_false, decide_eq_true_eq]
  rcases Nat.lt_or_eq_of_le hq with hlt | heq
  · split_ifs <;> omega
  · rw [heq] at hm ⊢
    split_ifs <;> omega

/-- A multiple of 2^k is not rounded. -/
theorem roundShift_mul_pow (q k : Nat) : roundShift (q * 2 ^ k) k false = q := by
  have hpos : 0 < 2 ^ k := Nat.two_pow_pos k
  simp [roundShift, Nat.mul_div_cancel q hpos]

/-! ## The binary32 encoding of a positive integer -/

/-- The significand of m, with its leading bit: 24 bits, or the next power of two where it is rounded up to that. -/
def significand (m : Nat) : Nat :=
  if Nat.log2 m ≤ 23 then m * 2 ^ (23 - Nat.log2 m) else roundShift m (Nat.log2 m - 23) false

theorem significand_mono {m n : Nat} (h : m ≤ n) (hl : Nat.log2 m = Nat.log2 n) : significand m ≤ significand n := by
  unfold significand
  rw [hl]
  split
  next => exact Nat.mul_le_mul_right _ h
  next => exact roundShift_mono h _

theorem significand_bounds {m : Nat} (h : m ≠ 0) : 8388608 ≤ significand m ∧ significand m ≤ 16777216 := by
  have hlo := Nat.log2_self_le h
  have hhi : m < 2 ^ (Nat.log2 m + 1) := Nat.lt_log2_self
  unfold significand
  split
  next hl =>
    obtain ⟨k, hk⟩ := Nat.exists_eq_add_of_le hl
    have hlo' := Nat.mul_le_mul_right (2 ^ k) hlo
    have hhi' := Nat.mul_le_mul_right (2 ^ k) hhi.le
    rw [← pow_add, ← hk] at hlo'
    rw [← pow_add, show m.log2 + 1 + k = 24 by omega] at hhi'
    rw [show 23 - m.log2 = k by omega]
    exact ⟨hlo', hhi'⟩
  next hl =>
    obtain ⟨k, hk⟩ := Nat.exists_eq_add_of_le (Nat.le_of_not_le hl)
    rw [hk] at hlo hhi ⊢
    rw [show 23 + k - 23 = k by omega]
    rw [pow_add] at hlo
    rw [show 23 + k + 1 = 24 + k by omega, pow_add] at hhi
    constructor
    · calc 8388608 = roundShift (2 ^ 23 * 2 ^ k) k false := (roundShift_mul_pow _ k).symm
        _ ≤ roundShift m k false := roundShift_mono hlo k
    · calc roundShift m k false ≤ roundShift (2 ^ 24 * 2 ^ k) k false := roundShift_mono hhi.le k
        _ = 16777216 := roundShift_mul_pow _ k

/-- The encoding of a normal number. -/
theorem bits_fin {m n : Nat} {e : Int} (he : e + 150 = n) (hm : 8388608 ≤ m) (hbound : n * 8388608 + m ≤ 4294967296) :
    (F32.fin false m e).bits.toNat = n * 8388608 + (m - 8388608) := by
  rw [F32.bits, he, Int.toNat_natCast, if_neg (Nat.not_lt.mpr hm), BitVec.toNat_ofNat]
  simp only [Bool.false_eq_true, if_false]
  omega

/-- The exponent that `roundF32` gives an integer is never the least one. -/
theorem exponent_eq (l : Nat) : max (0 + Int.ofNat l - 23) (-149) = (l : Int) - 23 := by
  rw [Int.ofNat_eq_natCast]
  omega

/-- An integer of at most 24 bits is exact. -/
theorem ofInt_of_log2_le {m : Nat} (h : m ≠ 0) (hl : Nat.log2 m ≤ 23) :
    F32.ofInt m = .fin false (significand m) (Nat.log2 m - 23) := by
  rw [F32.ofInt, Int.natAbs_natCast, roundF32, if_neg h]
  simp only [exponent_eq]
  rw [if_pos (by omega), significand, if_pos hl, show (0 - ((Nat.log2 m : Int) - 23)).toNat = 23 - Nat.log2 m by omega]
  simp

/-- A longer integer is rounded; a significand rounded up to 2^24 is halved, and the exponent raised. -/
theorem ofInt_of_lt_log2 {m : Nat} (hl : 23 < Nat.log2 m) (hl' : Nat.log2 m < 31) :
    F32.ofInt m =
      if significand m = 16777216 then .fin false 8388608 (Nat.log2 m - 22)
      else .fin false (significand m) (Nat.log2 m - 23) := by
  have h : m ≠ 0 := by
    rintro rfl
    exact absurd hl (by decide)
  have hs : significand m = roundShift m (Nat.log2 m - 23) false := if_neg (by omega)
  have hneg : decide ((m : Int) < 0) = false := by simp
  rw [F32.ofInt, Int.natAbs_natCast, roundF32, if_neg h]
  simp only [exponent_eq]
  rw [if_neg (by omega), show ((Nat.log2 m : Int) - 23 - 0).toNat = Nat.log2 m - 23 by omega, ← hs, hneg]
  split
  next => rw [if_neg (by omega), show (Nat.log2 m : Int) - 23 + 1 = Nat.log2 m - 22 by omega]
  next => rw [if_neg (by omega)]

/-- The encoding of m as a number, in which the carry of a significand of 2^24 needs no case of its own. -/
theorem bits_ofInt {m : Nat} (h : m ≠ 0) (hm : m < 2 ^ 31) :
    (F32.ofInt m).bits.toNat = (Nat.log2 m + 126) * 8388608 + significand m := by
  have hl : Nat.log2 m < 31 := (Nat.log2_lt h).mpr hm
  obtain ⟨hlo, hhi⟩ := significand_bounds h
  have hbits : (F32.fin false (significand m) ((Nat.log2 m : Int) - 23)).bits.toNat =
      (Nat.log2 m + 126) * 8388608 + significand m := by
    rw [bits_fin (n := Nat.log2 m + 127) (by omega) hlo (by omega)]
    omega
  rcases Nat.lt_or_ge 23 (Nat.log2 m) with hlong | hshort
  · rw [ofInt_of_lt_log2 hlong hl]
    split
    next hs =>
      rw [bits_fin (n := Nat.log2 m + 128) (by omega) le_rfl (by omega), hs]
      omega
    next => exact hbits
  · rw [ofInt_of_log2_le h hshort, hbits]

/-! ## The mini-float -/

/-- Below 2^31 - 64 the significand is not rounded up to 2^24. -/
theorem significand_lt_of_log2_eq {m : Nat} (hl : Nat.log2 m = 30) (hm : m < 2147483584) :
    significand m < 16777216 := by
  rw [significand, hl, if_neg (by decide)]
  calc roundShift m 7 false ≤ roundShift 2147483583 7 false := roundShift_mono (by omega) 7
    _ < 16777216 := by decide

/-- The mini-float of m at the bias of R146: eight for each binary order, and the three bits after the leading one. -/
theorem minifloat_eq {m : Nat} (h : m ≠ 0) (hm : m < 2147483584) :
    (minifloat 126 m).toNat = 8 * Nat.log2 m + significand m / 1048576 := by
  have hl : Nat.log2 m < 31 := (Nat.log2_lt h).mpr (by omega)
  have hbits := bits_ofInt h (by omega)
  have hsmall : 8 * Nat.log2 m + significand m / 1048576 < 256 := by
    rcases Nat.lt_or_ge (Nat.log2 m) 30 with hl30 | hl30
    · obtain ⟨_, hhi⟩ := significand_bounds h
      omega
    · have := significand_lt_of_log2_eq (show Nat.log2 m = 30 by omega) hm
      omega
  rw [minifloat, if_neg (by omega), hbits, BitVec.toNat_ofInt]
  omega

/-- Settles O46: scores of one binary order are compared by their significands, and the next order begins where the
largest significand ends. -/
theorem miniFloatIsMonotone : Obligations.MiniFloatIsMonotone := by
  intro x y hx hxy hy
  obtain ⟨m, rfl⟩ := Int.eq_ofNat_of_zero_le (show 0 ≤ x by omega)
  obtain ⟨n, rfl⟩ := Int.eq_ofNat_of_zero_le (show 0 ≤ y by omega)
  have hm : m ≠ 0 := by omega
  have hmn : m ≤ n := by omega
  rw [minifloat_eq hm (by omega), minifloat_eq (m := n) (by omega) (by omega)]
  obtain ⟨hlo, hhi⟩ := significand_bounds hm
  obtain ⟨hlo', _⟩ := significand_bounds (m := n) (by omega)
  refine ⟨by omega, ?_⟩
  have hlog : Nat.log2 m ≤ Nat.log2 n := (Nat.le_log2 (by omega)).mpr ((Nat.log2_self_le hm).trans hmn)
  rcases Nat.lt_or_eq_of_le hlog with hlt | heq
  · omega
  · have := significand_mono hmn heq
    omega

end Sys2Proof.Proofs
end

section
/-! The survivors of the walk: a window holds the marks around its block, a candidate is compared with its eight
neighbours, and the blocks together hold the cells of the bounded region, each once (42_nms_extract R160 to R163). -/

namespace Sys2Proof.Proofs

open Sys2Proof.Machine Sys2Proof.Safety

variable {s : State}

/-! ## The comparisons of a candidate -/

/-- The marks of the window of the block at (x, y). -/
abbrev windowOf (s : State) (x y : Nat) : List Byte := (windowAddrs s.regs x y).map (byteAt s.mem)

/-- A window holds the marks around its block. -/
theorem windowAt_windowOf (x y : Nat) {u v : Int} (hu : -1 ≤ u ∧ u ≤ 2) (hv : -1 ≤ v ∧ v ≤ 2) :
    windowAt (windowOf s x y) u v = mark s (x + u) (y + v) := by
  have hcell : ∀ i j : Nat, i < 4 → j < 4 →
      windowAt (windowOf s x y) ((i : Int) - 1) ((j : Int) - 1) = mark s ((x : Int) - 1 + i) ((y : Int) - 1 + j) := by
    intro i j hi hj
    interval_cases i <;> interval_cases j <;> rfl
  convert hcell (u + 1).toNat (v + 1).toNat (by omega) (by omega) using 2 <;> omega

/-- The offsets of the eight neighbours of a cell, row by row. -/
def neighbours : List (Int × Int) := [(-1, -1), (0, -1), (1, -1), (-1, 0), (1, 0), (-1, 1), (0, 1), (1, 1)]

theorem mem_neighbours {d : Int × Int} :
    d ∈ neighbours ↔ (-1 ≤ d.1 ∧ d.1 ≤ 1) ∧ (-1 ≤ d.2 ∧ d.2 ≤ 1) ∧ ¬(d.1 = 0 ∧ d.2 = 0) := by
  simp only [neighbours, List.mem_cons, Prod.ext_iff, List.not_mem_nil, or_false]
  omega

/-- The neighbour at offset `d` of the candidate at offset `c` of a block lies in the block, or comes later in
column-major order, so that the candidate must be larger. -/
abbrev MustBeat (c : Nat × Nat) (d : Int × Int) : Prop :=
  ((0 ≤ c.1 + d.1 ∧ c.1 + d.1 ≤ 1) ∧ 0 ≤ c.2 + d.2 ∧ c.2 + d.2 ≤ 1) ∨ 0 < d.1 ∨ d.1 = 0 ∧ 0 < d.2

/-- The table of R162 has, for each candidate, its eight neighbours by the general rule. -/
theorem comparisons_eq : ∀ cand ∈ candidates,
    cand.2 = neighbours.map fun d => ((cand.1.1 : Int) + d.1, (cand.1.2 : Int) + d.2, decide (MustBeat cand.1 d)) := by
  decide

/-- The candidates of a block are its four cells (42_nms_extract R161). -/
theorem exists_candidate {a b : Nat} (ha : a < 2) (hb : b < 2) : ∃ cand ∈ candidates, cand.1 = (a, b) := by
  have h : ∀ a < 2, ∀ b < 2, ∃ cand ∈ candidates, cand.1 = (a, b) := by decide
  exact h a ha b hb

theorem candidate_lt : ∀ cand ∈ candidates, cand.1.1 < 2 ∧ cand.1.2 < 2 := by decide

/-- The general rule for one neighbour: the cell is larger where it must be, and not smaller elsewhere. -/
def Beats (s : State) (px py : Int) (strict : Prop) (d : Int × Int) : Prop :=
  (mark s (px + d.1) (py + d.2)).toNat ≤ (mark s px py).toNat ∧
    (strict → (mark s (px + d.1) (py + d.2)).toNat < (mark s px py).toNat)

theorem dominates_iff {px py : Int} :
    Dominates s px py ↔ ∀ d ∈ neighbours,
      Beats s px py (sameBlock s.regs px py (px + d.1) (py + d.2) ∨ earlier px py (px + d.1) (py + d.2)) d := by
  simp only [mem_neighbours]
  exact ⟨fun h d ⟨⟨hx, hx'⟩, ⟨hy, hy'⟩, hne⟩ => h d.1 d.2 hx hx' hy hy' hne,
    fun h dx dy hx hx' hy hy' hne => h (dx, dy) ⟨⟨hx, hx'⟩, ⟨hy, hy'⟩, hne⟩⟩

/-- One comparison of R162 is the general rule for that neighbour. -/
theorem compareHolds_iff {x y : Nat} {c : Nat × Nat} {d : Int × Int} {strict : Prop} [Decidable strict]
    (hc : c.1 < 2 ∧ c.2 < 2) (hd : d ∈ neighbours) :
    compareHolds (windowOf s x y) (windowAt (windowOf s x y) c.1 c.2) (c.1 + d.1, c.2 + d.2, decide strict) = true ↔
      Beats s (x + c.1 : Nat) (y + c.2 : Nat) strict d := by
  obtain ⟨hx, hy, _⟩ := mem_neighbours.mp hd
  have hcell := windowAt_windowOf (s := s) x y (u := c.1) (v := c.2) (by omega) (by omega)
  have hnext := windowAt_windowOf (s := s) x y (u := c.1 + d.1) (v := c.2 + d.2) (by omega) (by omega)
  simp only [compareHolds, hcell, hnext, Beats, Nat.cast_add, Int.add_assoc, decide_eq_true_eq]
  split
  next h => exact ⟨fun hlt => ⟨Nat.le_of_lt (of_decide_eq_true hlt), fun _ => of_decide_eq_true hlt⟩,
    fun hb => decide_eq_true (hb.2 h)⟩
  next h => exact ⟨fun hle => ⟨of_decide_eq_true hle, fun hs => absurd hs h⟩, fun hb => decide_eq_true hb.1⟩

/-- What the table decides by a candidate's place in its block, the general rule decides by its place in the raster. -/
theorem mustBeat_iff {r : ParamRegs} {kx ky : Nat} {c : Nat × Nat} {d : Int × Int} {px py : Int}
    (hc : c.1 < 2 ∧ c.2 < 2) (hpx : px = (r.border.toNat + 2 * kx + c.1 : Nat))
    (hpy : py = (r.border.toNat + 2 * ky + c.2 : Nat)) :
    MustBeat c d ↔ sameBlock r px py (px + d.1) (py + d.2) ∨ earlier px py (px + d.1) (py + d.2) := by
  unfold sameBlock earlier
  omega

/-- A candidate survives in its window exactly where it dominates its neighbours (42_nms_extract R162). -/
theorem survives_iff_dominates {kx ky : Nat} {cand : (Nat × Nat) × List Comparison} (hcand : cand ∈ candidates) :
    survives (windowOf s (s.regs.border.toNat + 2 * kx) (s.regs.border.toNat + 2 * ky)) cand = true ↔
      Dominates s (s.regs.border.toNat + 2 * kx + cand.1.1 : Nat) (s.regs.border.toNat + 2 * ky + cand.1.2 : Nat) := by
  have hlt := candidate_lt cand hcand
  rw [survives, comparisons_eq cand hcand, List.all_map, List.all_eq_true, dominates_iff]
  refine forall₂_congr fun d hd => (compareHolds_iff hlt hd).trans ?_
  rw [Beats, Beats, mustBeat_iff hlt rfl rfl]

/-! ## The cells of the blocks -/

theorem mem_blockSurvivors {r : ParamRegs} {win : List Byte} {x y : Nat} {v : Survivor} :
    v ∈ blockSurvivors r win x y ↔ ∃ cand ∈ candidates,
      (x + cand.1.1 + r.border.toNat < r.width.toNat ∧ y + cand.1.2 + r.border.toNat < r.height.toNat) ∧
        survives win cand = true ∧ v = ⟨windowAt win cand.1.1 cand.1.2, x + cand.1.1, y + cand.1.2⟩ := by
  simp only [blockSurvivors, List.mem_map, List.mem_filter, Bool.and_eq_true, decide_eq_true_eq]
  exact ⟨fun ⟨cand, ⟨hcand, hin, hs⟩, he⟩ => ⟨cand, hcand, hin, hs, he.symm⟩,
    fun ⟨cand, hcand, hin, hs, he⟩ => ⟨cand, ⟨hcand, hin, hs⟩, he.symm⟩⟩

/-- The survivors of a block are its cells inside the region that dominate their neighbours, each with its mark. -/
theorem mem_blockSurvivors_windowOf {kx ky : Nat} {v : Survivor} :
    v ∈ blockSurvivors s.regs (windowOf s (s.regs.border.toNat + 2 * kx) (s.regs.border.toNat + 2 * ky))
        (s.regs.border.toNat + 2 * kx) (s.regs.border.toNat + 2 * ky) ↔
      InRegion s.regs v ∧ (v.x - s.regs.border.toNat) / 2 = kx ∧ (v.y - s.regs.border.toNat) / 2 = ky ∧
        Dominates s v.x v.y ∧ v.mark = mark s v.x v.y := by
  have hmark {cand : (Nat × Nat) × List Comparison} (hcand : cand ∈ candidates) :
      windowAt (windowOf s (s.regs.border.toNat + 2 * kx) (s.regs.border.toNat + 2 * ky)) cand.1.1 cand.1.2 =
        mark s (s.regs.border.toNat + 2 * kx + cand.1.1 : Nat) (s.regs.border.toNat + 2 * ky + cand.1.2 : Nat) := by
    have hlt := candidate_lt cand hcand
    rw [windowAt_windowOf _ _ (by omega) (by omega), Nat.cast_add _ cand.1.1, Nat.cast_add _ cand.1.2]
  rw [mem_blockSurvivors]
  constructor
  · rintro ⟨cand, hcand, hin, hs, rfl⟩
    have hlt := candidate_lt cand hcand
    refine ⟨?_, ?_, ?_, (survives_iff_dominates hcand).mp hs, hmark hcand⟩ <;> dsimp only [InRegion] <;> omega
  · obtain ⟨m, x, y⟩ := v
    rintro ⟨⟨hx, hy⟩, hkx, hky, hdom, hm⟩
    dsimp only at hx hy hkx hky hdom hm
    obtain ⟨cand, hcand, hpos⟩ := exists_candidate (Nat.mod_lt (x - s.regs.border.toNat) Nat.two_pos)
      (Nat.mod_lt (y - s.regs.border.toNat) Nat.two_pos)
    have hcx : s.regs.border.toNat + 2 * kx + cand.1.1 = x := by rw [hpos]; dsimp only; omega
    have hcy : s.regs.border.toNat + 2 * ky + cand.1.2 = y := by rw [hpos]; dsimp only; omega
    refine ⟨cand, hcand, ?_, (survives_iff_dominates hcand).mpr ?_, ?_⟩
    · rw [hcx, hcy]
      exact ⟨hx.2, hy.2⟩
    · rwa [hcx, hcy]
    · rw [hmark hcand, hcx, hcy, hm]

/-- The survivors are the cells of the bounded region that dominate their neighbours, each with its mark. -/
theorem mem_survivors {v : Survivor} :
    v ∈ survivors s ↔ InRegion s.regs v ∧ Dominates s v.x v.y ∧ v.mark = mark s v.x v.y := by
  rw [survivors, List.mem_flatMap]
  constructor
  · rintro ⟨c, hc, hv⟩
    obtain ⟨ky, kx, _, _, rfl⟩ := mem_blockOrigins.mp hc
    obtain ⟨hin, _, _, hdom, hmark⟩ := mem_blockSurvivors_windowOf.mp hv
    exact ⟨hin, hdom, hmark⟩
  · rintro ⟨hin, hdom, hmark⟩
    obtain ⟨hky, hkx⟩ : (v.y - s.regs.border.toNat) / 2 < blockCount s.regs.height s.regs.border ∧
        (v.x - s.regs.border.toNat) / 2 < blockCount s.regs.width s.regs.border := by
      unfold InRegion at hin
      unfold blockCount innerExtent
      omega
    exact ⟨_, mem_blockOrigins.mpr ⟨_, _, hky, hkx, rfl⟩, mem_blockSurvivors_windowOf.mpr ⟨hin, rfl, rfl, hdom, hmark⟩⟩

theorem inRegion_iff {v : Survivor} {r : ParamRegs} : InRegion r v ↔ (v.x, v.y) ∈ regionCells r := by
  rw [mem_regionCells, InRegion, innerExtent, innerExtent]
  dsimp only
  omega

/-- A cell that dominates its neighbours is larger than the next one of its row, so its mark is not 0. -/
theorem mark_ne_zero_of_dominates {x y : Int} (h : Dominates s x y) : mark s x y ≠ 0 := by
  intro h0
  obtain ⟨_, hlt⟩ := h 1 0 (by omega) (by omega) (by omega) (by omega) (by omega)
  have := hlt (.inr (.inl (by omega)))
  rw [h0] at this
  exact Nat.not_lt_zero _ this

/-- Two cells of a block that dominate their neighbours are one cell, since each would be larger than the other. -/
theorem eq_of_dominates_of_sameBlock {px py qx qy : Int} (hp : Dominates s px py) (hq : Dominates s qx qy)
    (hblock : sameBlock s.regs px py qx qy) : px = qx ∧ py = qy := by
  by_contra hne
  obtain ⟨hbx, hby⟩ := hblock
  have hpq := hp (qx - px) (qy - py) (by omega) (by omega) (by omega) (by omega) (by omega)
  have hqp := hq (px - qx) (py - qy) (by omega) (by omega) (by omega) (by omega) (by omega)
  rw [add_sub_cancel, add_sub_cancel] at hpq hqp
  have hlt := hpq.2 (.inl ⟨hbx, hby⟩)
  have hlt' := hqp.2 (.inl ⟨hbx.symm, hby.symm⟩)
  omega

/-! ## Each cell once -/

theorem nodup_blockOrigins (r : ParamRegs) : (blockOrigins r).Nodup := by
  refine List.nodup_flatMap.mpr ⟨fun ky _ => List.Nodup.map (fun kx kx' h => ?_) List.nodup_range',
    List.Pairwise.imp ?_ (List.nodup_range' (s := 0) (n := blockCount r.height r.border))⟩
  · have := (Prod.mk.inj h).1
    omega
  · intro ky ky' hne c hc hc'
    obtain ⟨_, _, rfl⟩ := List.mem_map.mp hc
    obtain ⟨_, _, he⟩ := List.mem_map.mp hc'
    have := (Prod.mk.inj he).2
    omega

theorem nodup_blockSurvivors (r : ParamRegs) (win : List Byte) (x y : Nat) : (blockSurvivors r win x y).Nodup := by
  have hcand : candidates.Pairwise fun c c' => c.1 ≠ c'.1 := by decide
  refine List.pairwise_map.mpr ((hcand.filter _).imp fun {c c'} hne he => hne ?_)
  obtain ⟨_, hx, hy⟩ := Survivor.mk.inj he
  exact Prod.ext (Nat.add_left_cancel hx) (Nat.add_left_cancel hy)

/-- The walk lists no survivor twice: its position tells the block. -/
theorem nodup_survivors (s : State) : (survivors s).Nodup := by
  refine List.nodup_flatMap.mpr ⟨fun c _ => nodup_blockSurvivors _ _ _ _,
    (nodup_blockOrigins s.regs).imp_of_mem fun {c c'} hc hc' hne v hv hv' => hne ?_⟩
  obtain ⟨ky, kx, _, _, rfl⟩ := mem_blockOrigins.mp hc
  obtain ⟨ky', kx', _, _, rfl⟩ := mem_blockOrigins.mp hc'
  obtain ⟨_, rfl, rfl, _⟩ := mem_blockSurvivors_windowOf.mp hv
  obtain ⟨_, rfl, rfl, _⟩ := mem_blockSurvivors_windowOf.mp hv'
  rfl

/-- Settles O47: the survivors are listed once each, and a block has no room for two. -/
theorem survivorsAreTheDominatingCells : Obligations.SurvivorsAreTheDominatingCells := by
  intro s
  refine ⟨fun x y => ⟨?_, fun ⟨hin, hdom⟩ => ?_⟩, fun v hv => ?_,
    (nodup_survivors s).imp_of_mem fun {u v} hu hv hne hblock => hne ?_⟩
  · rintro ⟨v, hv, rfl, rfl⟩
    obtain ⟨hin, hdom, _⟩ := mem_survivors.mp hv
    exact ⟨inRegion_iff.mp hin, hdom⟩
  · exact ⟨⟨mark s x y, x, y⟩, mem_survivors.mpr ⟨inRegion_iff.mpr hin, hdom, rfl⟩, rfl, rfl⟩
  · obtain ⟨_, hdom, hmark⟩ := mem_survivors.mp hv
    exact ⟨hmark, hmark ▸ mark_ne_zero_of_dominates hdom⟩
  · obtain ⟨_, hdom, hmark⟩ := mem_survivors.mp hu
    obtain ⟨_, hdom', hmark'⟩ := mem_survivors.mp hv
    obtain ⟨hx, hy⟩ := eq_of_dominates_of_sameBlock hdom hdom' hblock
    obtain ⟨m, x, y⟩ := u
    obtain ⟨m', x', y'⟩ := v
    dsimp only at hx hy hmark hmark'
    obtain rfl := Int.ofNat.inj hx
    obtain rfl := Int.ofNat.inj hy
    rw [hmark, hmark']

end Sys2Proof.Proofs
end

section
/-! Bucket insertion: each insertion keeps the K largest of the words inserted so far (42_nms_extract R168). -/

namespace Sys2Proof.Proofs

open Sys2Proof.Machine Sys2Proof.Safety

variable {k : Nat} {u w : Word} {b ws : List Word}

/-- A bucket with room takes the word. -/
theorem bucketInsert_of_room (h : b.length < k) : bucketInsert k w b = insertAscending w b := by
  cases b with
  | nil => rfl
  | cons u b => exact if_pos h

/-- In a full bucket the word replaces the weakest entry, if that is weaker. -/
theorem bucketInsert_of_full (h : k ≤ b.length + 1) :
    bucketInsert k w (u :: b) = if u.toNat < w.toNat then insertAscending w b else u :: b := by
  rw [bucketInsert, if_neg (by omega)]
  simp only [weaker, decide_eq_true_eq]

theorem insertAscending_perm (w : Word) (b : Bucket) : (insertAscending w b).Perm (w :: b) := by
  rw [insertAscending_eq]
  exact List.perm_orderedInsert (· ≤ ·) w b

/-- The first entry of a bucket is its weakest. -/
theorem weakest_le (h : Ascending (u :: b)) : ∀ x ∈ u :: b, u.toNat ≤ x.toNat := by
  intro x hx
  rcases List.mem_cons.mp hx with rfl | hx
  · exact le_rfl
  · exact List.rel_of_pairwise_cons h hx

theorem holdsLargest_nil (k : Nat) : HoldsLargest k [] [] :=
  ⟨List.Pairwise.nil, (Nat.min_zero k).symm, [], List.Perm.nil, fun _ hu => by cases hu⟩

theorem holdsLargest_of_perm {ws' : List Word} (hp : ws.Perm ws') (h : HoldsLargest k ws b) : HoldsLargest k ws' b := by
  obtain ⟨hasc, hlen, rest, hperm, hlargest⟩ := h
  exact ⟨hasc, hp.length_eq ▸ hlen, rest, hperm.trans hp, hlargest⟩

/-- A bucket with room has left out no word, and takes the next one. -/
theorem holdsLargest_insert_of_room (hroom : b.length < k) (h : HoldsLargest k ws b) (w : Word) :
    HoldsLargest k (w :: ws) (bucketInsert k w b) := by
  obtain ⟨hasc, hlen, rest, hperm, _⟩ := h
  have htotal := hperm.length_eq
  rw [List.length_append] at htotal
  obtain rfl : rest = [] := List.length_eq_zero_iff.mp (by omega)
  rw [bucketInsert_of_room hroom]
  refine ⟨ascending_insertAscending hasc, ?_, [], ?_, fun _ _ _ hv => by cases hv⟩
  · rw [length_insertAscending, List.length_cons]
    omega
  · rw [List.append_nil] at hperm ⊢
    exact (insertAscending_perm w b).trans (hperm.cons w)

/-- In a full bucket the next word and the weakest entry are compared, and the smaller one is left out. -/
theorem holdsLargest_insert_of_full (hfull : k ≤ b.length + 1) (h : HoldsLargest k ws (u :: b)) (w : Word) :
    HoldsLargest k (w :: ws) (bucketInsert k w (u :: b)) := by
  obtain ⟨hasc, hlen, rest, hperm, hlargest⟩ := h
  have hrest := hlargest u List.mem_cons_self
  rw [List.length_cons] at hlen
  rw [bucketInsert_of_full hfull]
  split
  case isTrue hlt =>
    refine ⟨ascending_insertAscending hasc.tail, ?_, u :: rest, ?_, fun x hx v hv => ?_⟩
    · rw [length_insertAscending, List.length_cons]
      omega
    · have happend : (insertAscending w b ++ u :: rest).Perm (w :: b ++ u :: rest) :=
        (insertAscending_perm w b).append_right _
      exact happend.trans ((List.perm_middle.trans hperm).cons w)
    · have hux : u.toNat ≤ x.toNat := by
        rcases mem_insertAscending.mp hx with rfl | hx
        · exact hlt.le
        · exact weakest_le hasc x (List.mem_cons_of_mem u hx)
      rcases List.mem_cons.mp hv with rfl | hv
      · exact hux
      · exact (hrest v hv).trans hux
  case isFalse hnot =>
    refine ⟨hasc, ?_, w :: rest, List.perm_middle.trans (hperm.cons w), fun x hx v hv => ?_⟩
    · rw [List.length_cons, List.length_cons]
      omega
    · rcases List.mem_cons.mp hv with rfl | hv
      · exact (Nat.le_of_not_lt hnot).trans (weakest_le hasc x hx)
      · exact hlargest x hx v hv

/-- One insertion: the bucket holds the K largest of one word more. -/
theorem holdsLargest_insert (hk : 1 ≤ k) (h : HoldsLargest k ws b) (w : Word) :
    HoldsLargest k (w :: ws) (bucketInsert k w b) := by
  cases b with
  | nil => exact holdsLargest_insert_of_room hk h w
  | cons u b =>
    by_cases hroom : (u :: b).length < k
    · exact holdsLargest_insert_of_room hroom h w
    · exact holdsLargest_insert_of_full (Nat.not_lt.mp hroom) h w

/-- Words inserted one after another into a bucket that holds the K largest of some words already. -/
theorem holdsLargest_foldl (hk : 1 ≤ k) (h : HoldsLargest k ws b) (vs : List Word) :
    HoldsLargest k (vs ++ ws) (vs.foldl (fun b w => bucketInsert k w b) b) := by
  induction vs generalizing ws b with
  | nil => exact h
  | cons v vs ih => exact holdsLargest_of_perm List.perm_middle (ih (holdsLargest_insert hk h v))

/-- Settles O48: the empty bucket holds the largest of no words, and each insertion adds one. -/
theorem insertionKeepsTheLargestWords : Obligations.InsertionKeepsTheLargestWords := by
  intro k ws hk
  have h := holdsLargest_foldl hk (holdsLargest_nil k) ws
  rwa [List.append_nil] at h

end Sys2Proof.Proofs
end

section
/-! EXTRACT, EXTRACT_BKT and GRID_BUCKET: the words that their walk appends, the grid that it fills, and the grid that
is lost (42_nms_extract R165, R169, 43_feature_grid R192, R194). -/

namespace Sys2Proof.Proofs

open Sys2Proof.Machine Sys2Proof.Safety

variable {i : Instr} {s t u : State}

/-- Settles O34: EXTRACT only appends, and every input is usable. -/
theorem extractAppendsTheSurvivors : Obligations.ExtractAppendsTheSurvivors :=
  fun _ hlegal hadm hroom hapart => exec_appends rfl rfl hlegal trivial hadm hroom hapart

/-! ## A command past its checks -/

/-- How a command ends that passes its checks: its work is done and what it sets then is set, or its work stops. -/
theorem exec_next_of_passes (hpass : Passes i s) (h : exec i s = .next t) :
    (∃ c c', work i s (entered i s) = .ok () c ∧ finale i s c = .ok () c' ∧ t = (refreshed i c'.st).finish) ∨
      ∃ e info c, work i s (entered i s) = .err e info c ∧ t = (refreshed i c.st).raise e info := by
  have hend := (exec_next h).2
  rw [body_passes hpass, worked] at hend
  cases hc : work i s (entered i s) with
  | ok _ c =>
    obtain ⟨c', hfinale, _⟩ := finale_ok i s c
    rw [Cmd.bind_ok hc, hfinale] at hend
    rcases hend with ⟨_, hok, rfl⟩ | ⟨_, _, _, herr, _⟩
    · cases hok
      exact .inl ⟨c, c', rfl, hfinale, rfl⟩
    · cases herr
  | err e info c =>
    rw [Cmd.bind_err hc] at hend
    rcases hend with ⟨_, hok, _⟩ | ⟨_, _, _, herr, rfl⟩
    · cases hok
    · cases herr
      exact .inr ⟨e, info, c, rfl, rfl⟩

/-- A command whose work, and what it sets then, ends well ends without an error. -/
theorem exec_of_finale_ok {c c' : Run} {es : List (List Byte)} (hpass : Passes i s) (hJ : (wholeJob i s).Safe)
    (hwork : work i s (entered i s) = .ok () c) (hes : After (wholeJob i s) es c) (hfinale : finale i s c = .ok () c') :
    exec i s = .next (refreshed i c'.st).finish := by
  have hfoot : c'.reads = c.reads ∧ c'.writes = c.writes := by
    cases i <;> cases hfinale <;> exact ⟨rfl, rfl⟩
  rw [exec_eq]
  refine runCommand_ok (((body_passes hpass).trans (Cmd.bind_ok hwork)).trans hfinale) fun a hw hr => ?_
  exact hJ a (hes.writes a (hfoot.2 ▸ hw)) (hes.reads a (hfoot.1 ▸ hr))

/-- A command that BUS has ended has passed its checks, since they raise other errors. -/
theorem passes_of_bus (h : exec i s = .next t) (hbus : t.status.errCode = .bus) : Passes i s := by
  by_contra hfail
  obtain ⟨e, info, hbody, he⟩ := body_fails hfail
  have hend := (exec_next h).2
  rw [hbody] at hend
  rcases hend with ⟨_, hok, _⟩ | ⟨_, _, _, hraised, rfl⟩
  · cases hok
  · cases hraised
    obtain rfl : e = .bus := hbus
    rcases he with he | he <;> cases he

/-- The work of a command that appends or walks leaves a run of its job, however it ends. -/
theorem exists_after_work (hm : writesMarks i = false) (hlegal : Legal i s) (hJ : (wholeJob i s).Safe) :
    ∃ es, After (wholeJob i s) es (work i s (entered i s)).run := by
  obtain ⟨b, hout⟩ := work_outcome hm hlegal hJ
  generalize work i s (entered i s) = res at hout ⊢
  cases hout with
  | ok hes => exact ⟨_, hes⟩
  | err _ hes => exact ⟨_, hes⟩

/-! ## The grid that is lost -/

/-- No grid and no index are valid, and the registers that show them read 0. -/
structure NoGrid (u : State) : Prop where
  gridValid : u.status.gridValid = false
  indexValid : u.status.indexValid = false
  gridDim : u.gridDim = 0
  gridTotal : u.gridTotal = 0

/-- The work of EXTRACT_BKT and of GRID_BUCKET leaves the grid lost (42_nms_extract R169, 43_feature_grid R192). -/
theorem noGrid_of_after {joined asked : List Int} {bad : Prop} {es : List (List Byte)} {c : Run}
    (hi : i = .extractBkt ∨ i = .gridBucket) (hes : After (jobOf i s joined asked bad) es c) : NoGrid c.st := by
  rcases hi with rfl | rfl <;> rw [hes.frame] <;> exact ⟨rfl, rfl, rfl, rfl⟩

theorem NoGrid.refreshed (h : NoGrid u) (i : Instr) : NoGrid (refreshed i u) := by
  unfold Proofs.refreshed State.refreshTotal
  rw [h.gridValid]
  split
  · exact ⟨h.gridValid, h.indexValid, h.gridDim, rfl⟩
  · exact h

theorem NoGrid.finish (h : NoGrid u) : NoGrid u.finish := ⟨h.gridValid, h.indexValid, h.gridDim, h.gridTotal⟩

theorem NoGrid.raise (h : NoGrid u) (e : ErrCode) (info : Word) : NoGrid (u.raise e info) :=
  ⟨h.gridValid, h.indexValid, h.gridDim, h.gridTotal⟩

theorem noGrid_of_gridBucket_bus (herr : s.status.err = false) (h : exec .gridBucket s = .next t)
    (hterr : t.status.err = true) (hbus : t.status.errCode = .bus) : NoGrid t := by
  have hpass := passes_of_bus h hbus
  obtain ⟨es, hes⟩ := exists_after_work rfl hpass.1 (gridJob_safe (i := .gridBucket) rfl)
  rcases exec_next_of_passes hpass h with ⟨c, _, hc, _⟩ | ⟨e, info, c, hc, rfl⟩
  · rw [hc] at hes
    cases hterr.symm.trans (((exec_next_of_work_ok hpass h hc).2.trans hes.err).trans herr)
  · rw [hc] at hes
    exact ((noGrid_of_after (.inr rfl) hes).refreshed .gridBucket).raise e info

theorem noGrid_of_extractBkt (hlegal : Legal .extractBkt s) (h : exec .extractBkt s = .next t) : NoGrid t := by
  have hpass : Passes .extractBkt s := ⟨hlegal, rfl⟩
  have hJ := wholeJob_safe (i := .extractBkt) rfl (by decide) (declared_apart hpass h)
  obtain ⟨es, hes⟩ := exists_after_work rfl hlegal hJ
  rcases exec_next_of_passes hpass h with ⟨c, _, hc, hfinale, rfl⟩ | ⟨e, info, c, hc, rfl⟩ <;> rw [hc] at hes
  · cases hfinale
    exact ((noGrid_of_after (.inl rfl) hes).refreshed .extractBkt).finish
  · exact ((noGrid_of_after (.inl rfl) hes).refreshed .extractBkt).raise e info

/-- Settles O28: both commands lose the grid before they walk, and what ends them does not bring it back. -/
theorem lostGridsReadAsNoGrid : Obligations.LostGridsReadAsNoGrid := by
  intro s t herr
  refine ⟨fun h hterr hbus => ?_, fun hlegal h => ?_⟩
  · obtain ⟨hvalid, hindex, hdim, htotal⟩ := noGrid_of_gridBucket_bus herr h hterr hbus
    exact ⟨hvalid, hindex, hdim, htotal⟩
  · obtain ⟨hvalid, hindex, hdim, htotal⟩ := noGrid_of_extractBkt hlegal h
    exact ⟨hvalid, hindex, hdim, htotal⟩

/-! ## EXTRACT_BKT completes -/

/-- Settles O35: the work appends the filled grid, and the grid in storage is lost (42_nms_extract R169). -/
theorem extractBktAppendsTheFilledGrid : Obligations.ExtractBktAppendsTheFilledGrid := by
  intro s hlegal hadm hroom hapart
  have hgrid : isGridCommand .extractBkt = true → GridOk s := fun h => by cases h
  have htotal : (outputs s .extractBkt).length = wholeOutput s .extractBkt :=
    length_outputs_whole hlegal rfl hgrid hadm
  have hJ := wholeJob_safe_of_apart rfl rfl hlegal htotal hapart
  obtain ⟨c, hc, hes⟩ := work_finishes rfl hlegal hJ trivial hadm (htotal ▸ hroom.1) (htotal ▸ hroom.2)
  have hexec : exec .extractBkt s = .next c.st.finish := exec_of_finale_ok ⟨hlegal, rfl⟩ hJ hc hes rfl
  have hindex : c.st.index = s.index := index_of_exec (t := c.st.finish) (by decide) hexec
  have hmemory := hes.memory rfl
  rw [flatten_outputs_whole hlegal rfl hgrid hadm] at hmemory
  have hframe := hes.frame
  rw [htotal, hindex] at hframe
  refine ⟨_, hexec, ⟨?_, hmemory⟩, ?_⟩ <;> rw [hframe]
  · rfl
  · exact ⟨rfl, rfl⟩

/-! ## GRID_BUCKET completes -/

/-- The walk of GRID_BUCKET fills the grid with the survivors that the platform answers for. -/
theorem gridBucket_fills {J : Job} (hJ : J.Safe) (hs : J.start = s.loseGrid) (hw : J.Walks (blockOrigins s.regs)) :
    Emits J (work .gridBucket s) [] (fillGrid s.regs (survivorsIn s.params s.regs s.mem)) (walkReads s.regs) () [] := by
  have hr : J.start.regs = s.regs := by rw [hs]; rfl
  have hsurv : survivorsAt J.start = survivorsAt s := by rw [hs]; rfl
  have hwalk := Emits.blocks hJ (hr ▸ hw) (G := insertGrid s.regs) (out := fun _ => [])
    (fun v b => .modifyBuckets _ b) (emptyBuckets (gridCols s.regs * gridRows s.regs))
  rw [hr, hsurv] at hwalk
  dsimp only [work]
  rw [walk_eq]
  exact ((Emits.modifyBuckets _ []).after fun _ => hwalk).cast (fun _ ha => ha) rfl (by simp)

/-- GRID_BUCKET appends nothing, so only a refused mark can stop its work. -/
theorem gridBucket_work_finishes (hlegal : Legal .gridBucket s) (hadm : AllAdmitted s.params (walkReads s.regs)) :
    ∃ c es, work .gridBucket s (entered .gridBucket s) = .ok () c ∧ After (wholeJob .gridBucket s) es c := by
  obtain ⟨b, hout⟩ := work_outcome rfl hlegal (gridJob_safe (i := .gridBucket) rfl)
  generalize work .gridBucket s (entered .gridBucket s) = res at hout ⊢
  cases hout with
  | ok hes => exact ⟨_, _, rfl, hes⟩
  | err _ _ hstop =>
    rcases stops_jobOf hstop with ⟨_, a, _, href, ha, _⟩ | ⟨_, hlt, _⟩ | ⟨_, _, hlt, _⟩ | ⟨hbad, _⟩
    · cases href.symm.trans (hadm a ha)
    · exact absurd hlt (Nat.not_lt_zero _)
    · exact absurd hlt (Nat.not_lt_zero _)
    · exact absurd trivial hbad

/-- Where the work of GRID_BUCKET ends well, the buckets are those that the survivors fill. -/
theorem buckets_of_gridBucket {c : Run} (hlegal : Legal .gridBucket s)
    (hc : work .gridBucket s (entered .gridBucket s) = .ok () c) :
    c.buckets = fillGrid s.regs (survivorsIn s.params s.regs s.mem) := by
  have hfills := gridBucket_fills (gridJob_safe (i := .gridBucket) rfl) rfl
    (walksMarks_jobOf rfl hlegal fun _ ha => ha) [] (entered .gridBucket s) le_rfl (after_entered rfl hlegal) rfl
  rw [hc] at hfills
  obtain ⟨_, hb, _⟩ | _ := hfills
  exact hb

/-- The walk of GRID_BUCKET changes nothing of the state, which has lost its grid. -/
theorem st_of_gridBucket {c : Run} (hc : work .gridBucket s (entered .gridBucket s) = .ok () c) :
    c.st = s.loseGrid := by
  dsimp only [work] at hc
  obtain ⟨_, c1, hempty, hwalk⟩ := Cmd.bind_eq_ok.mp hc
  cases hempty
  exact ((walk_filling (p := s.params) _).ok hwalk).1

theorem length_fillGrid (r : ParamRegs) (vs : List Survivor) : (fillGrid r vs).length = gridCols r * gridRows r := by
  have hfold (bs : List Bucket) : (vs.foldl (insertGrid r) bs).length = bs.length := by
    induction vs generalizing bs with
    | nil => rfl
    | cons v vs ih => exact (ih _).trans (length_insertInto _ _ _ _)
  rw [fillGrid_eq, hfold, emptyBuckets, List.length_replicate]

/-- GRID_BUCKET completes with the survivors' grid. -/
theorem exec_gridBucket (hlegal : Legal .gridBucket s) (hadm : AllAdmitted s.params (walkReads s.regs)) :
    exec .gridBucket s =
      .next (s.loseGrid.installGrid (builtGrid s.regs (fillGrid s.regs (survivors s)))).refreshTotal.finish := by
  obtain ⟨c, es, hc, hes⟩ := gridBucket_work_finishes hlegal hadm
  rw [← survivorsIn_eq hadm, ← buckets_of_gridBucket hlegal hc, ← st_of_gridBucket hc]
  exact exec_of_finale_ok ⟨hlegal, rfl⟩ (gridJob_safe rfl) hc hes rfl

/-- Settles O36: the state is that of the walk with the grid installed; an empty region has no buckets. -/
theorem gridBucketBuildsTheGrid : Obligations.GridBucketBuildsTheGrid := by
  intro s hlegal hadm
  refine ⟨_, exec_gridBucket hlegal hadm, rfl, fun hempty => ?_⟩
  have hgeom : geometry s.regs.width.toNat s.regs.height.toNat s.regs.border.toNat s.regs.logBkt.toNat = (0, 0) :=
    geometry_empty _ hempty
  have hcols : gridCols s.regs = 0 := by rw [gridCols, hgeom]
  have hrows : gridRows s.regs = 0 := by rw [gridRows, hgeom]
  have hnone : fillGrid s.regs (survivors s) = [] := by
    rw [← List.length_eq_zero_iff, length_fillGrid, hcols, Nat.zero_mul]
  constructor
  · change gridDimWord (gridCols s.regs) (gridRows s.regs) = 0
    rw [hcols, hrows]
    rfl
  · change BitVec.ofNat 32 (entryCount (fillGrid s.regs (survivors s))) = 0
    rw [hnone]
    rfl

end Sys2Proof.Proofs
end

section
/-! GRID_REDUCE as a sequence of removals, each of the weakest entry of a super-cell: what one removal keeps, the whole
run keeps (43_feature_grid R197 to R199). -/

namespace Sys2Proof.Proofs

open Sys2Proof.Machine Sys2Proof.Safety

/-! ## The number of a bucket -/

/-- The number of bucket (i, j) tells its row and its column. -/
theorem cell_div_mod {n i j : Nat} (hj : j < n) : (i * n + j) / n = i ∧ (i * n + j) % n = j :=
  (Nat.div_mod_unique (Nat.zero_lt_of_lt hj)).mpr ⟨by rw [Nat.mul_comm, Nat.add_comm], hj⟩

/-- A bucket of the geometry has its place in the storage. -/
theorem cell_lt {m n i j : Nat} (hi : i < m) (hj : j < n) : i * n + j < m * n :=
  Nat.mul_comm n i ▸ Nat.mul_add_lt_mul_of_lt_of_lt hi hj

/-! ## The weakest entry removed -/

theorem bucketAt_dropWeakest (n q : Nat) (bs : List Bucket) :
    bucketAt (dropWeakest n bs) q = if q = n then (bucketAt bs q).tail else bucketAt bs q := by
  induction bs generalizing n q with
  | nil => cases n <;> simp [dropWeakest]
  | cons b bs ih =>
    cases n with
    | zero => cases q <;> simp [dropWeakest]
    | succ n =>
      cases q with
      | zero => simp [dropWeakest]
      | succ q => simpa [dropWeakest] using ih n q

theorem entryCount_dropWeakest {bs : List Bucket} {q : Nat} {w : Word} {b : Bucket} (h : bucketAt bs q = w :: b) :
    entryCount (dropWeakest q bs) + 1 = entryCount bs := by
  induction bs generalizing q with
  | nil => cases h
  | cons b' bs ih =>
    cases q with
    | zero =>
      obtain rfl : b' = w :: b := h
      rw [dropWeakest, entryCount, entryCount, List.tail_cons, List.length_cons]
      omega
    | succ q =>
      rw [dropWeakest, entryCount, entryCount, ← ih h, Nat.add_assoc]

theorem cellCount_congr {bs bs' : List Bucket} {cells : List Nat} (h : ∀ q ∈ cells, bucketAt bs' q = bucketAt bs q) :
    cellCount bs' cells = cellCount bs cells := by
  induction cells with
  | nil => rfl
  | cons q cells ih =>
    rw [cellCount, cellCount, h q List.mem_cons_self, ih fun p hp => h p (List.mem_cons_of_mem q hp)]

theorem cellCount_dropWeakest_of_notMem {bs : List Bucket} {cells : List Nat} {q : Nat} (h : q ∉ cells) :
    cellCount (dropWeakest q bs) cells = cellCount bs cells := by
  refine cellCount_congr fun p hp => ?_
  rw [bucketAt_dropWeakest, if_neg]
  rintro rfl
  exact h hp

theorem cellCount_dropWeakest_of_mem {bs : List Bucket} {cells : List Nat} {q : Nat} {w : Word} {b : Bucket}
    (hcells : cells.Nodup) (hq : q ∈ cells) (h : bucketAt bs q = w :: b) :
    cellCount (dropWeakest q bs) cells + 1 = cellCount bs cells := by
  induction cells with
  | nil => cases hq
  | cons p cells ih =>
    obtain ⟨hp, hcells⟩ := List.nodup_cons.mp hcells
    rw [cellCount, cellCount, bucketAt_dropWeakest]
    rcases List.mem_cons.mp hq with rfl | hq
    · rw [if_pos rfl, cellCount_dropWeakest_of_notMem hp, h, List.tail_cons, List.length_cons]
      omega
    · rw [if_neg (by rintro rfl; exact hp hq), ← ih hcells hq, Nat.add_assoc]

theorem cellCount_le_of_trims {bs bs' : List Bucket} (h : Trims bs bs') (cells : List Nat) :
    cellCount bs' cells ≤ cellCount bs cells := by
  induction cells with
  | nil => exact le_rfl
  | cons q cells ih => exact Nat.add_le_add (h.suffix q).length_le ih

theorem cellCount_eq_zero {bs : List Bucket} {cells : List Nat} (h : ∀ q ∈ cells, bucketAt bs q = []) :
    cellCount bs cells = 0 := by
  induction cells with
  | nil => rfl
  | cons q cells ih =>
    rw [cellCount, h q List.mem_cons_self, ih fun p hp => h p (List.mem_cons_of_mem q hp)]
    rfl

/-! ## The weakest entry found -/

/-- `w` is the weakest entry of the buckets of some cells, and stands first in bucket `q`. -/
structure WeakestAt (bs : List Bucket) (cells : List Nat) (q : Nat) (w : Word) : Prop where
  mem : q ∈ cells
  first : ∃ b, bucketAt bs q = w :: b
  least : ∀ q' ∈ cells, ∀ v b, bucketAt bs q' = v :: b → w.toNat ≤ v.toNat

theorem weakestCell_eq_none {bs : List Bucket} {cells : List Nat} (h : weakestCell bs cells = none) :
    ∀ q ∈ cells, bucketAt bs q = [] := by
  induction cells with
  | nil => exact fun _ hq => by cases hq
  | cons p cells ih =>
    rw [weakestCell] at h
    cases hb : bucketAt bs p with
    | nil =>
      rw [hb] at h
      exact List.forall_mem_cons.mpr ⟨hb, ih h⟩
    | cons w b =>
      rw [hb] at h
      cases hrest : weakestCell bs cells with
      | none => rw [hrest] at h; cases h
      | some best =>
        rw [hrest] at h
        dsimp only at h
        split at h <;> cases h

/-- One cell more, whose first entry is at least as weak as the weakest of the others. -/
theorem WeakestAt.head {bs : List Bucket} {cells : List Nat} {q : Nat} {w : Word} {b : Bucket}
    (hb : bucketAt bs q = w :: b) (h : ∀ q' ∈ cells, ∀ v b, bucketAt bs q' = v :: b → w.toNat ≤ v.toNat) :
    WeakestAt bs (q :: cells) q w where
  mem := List.mem_cons_self
  first := ⟨b, hb⟩
  least q' hq' v b' hv := by
    rcases List.mem_cons.mp hq' with rfl | hq'
    · rw [hb] at hv
      cases hv
      exact le_rfl
    · exact h q' hq' v b' hv

/-- One cell more, which is empty or begins with a stronger entry. -/
theorem WeakestAt.tail {bs : List Bucket} {cells : List Nat} {q p : Nat} {w : Word} (h : WeakestAt bs cells q w)
    (hp : ∀ v b, bucketAt bs p = v :: b → w.toNat ≤ v.toNat) : WeakestAt bs (p :: cells) q w where
  mem := List.mem_cons_of_mem p h.mem
  first := h.first
  least q' hq' v b' hv := by
    rcases List.mem_cons.mp hq' with rfl | hq'
    · exact hp v b' hv
    · exact h.least q' hq' v b' hv

theorem weakestCell_eq_some {bs : List Bucket} {cells : List Nat} {q : Nat} {w : Word}
    (h : weakestCell bs cells = some (q, w)) : WeakestAt bs cells q w := by
  induction cells generalizing q w with
  | nil => cases h
  | cons p cells ih =>
    cases hb : bucketAt bs p with
    | nil =>
      rw [weakestCell, hb] at h
      exact (ih h).tail fun v b hv => by rw [hb] at hv; cases hv
    | cons u b =>
      rw [weakestCell, hb] at h
      cases hrest : weakestCell bs cells with
      | none =>
        rw [hrest] at h
        cases h
        refine .head hb fun q' hq' v b' hv => ?_
        rw [weakestCell_eq_none hrest q' hq'] at hv
        cases hv
      | some best =>
        obtain ⟨q', w'⟩ := best
        rw [hrest] at h
        simp only [weaker, decide_eq_true_eq] at h
        split at h
        next hlt =>
          cases h
          exact (ih hrest).tail fun v b' hv => by rw [hb] at hv; cases hv; exact hlt.le
        next hge =>
          cases h
          exact .head hb fun p' hp' v b' hv => (Nat.not_lt.mp hge).trans ((ih hrest).least p' hp' v b' hv)

/-! ## The run as a sequence of removals -/

/-- One removal of R197: a super-cell holds more than `n` entries while the total is above the target, so it loses its
weakest. -/
inductive Removes (n tgt : Nat) (cells : List Nat) : List Bucket × Nat → List Bucket × Nat → Prop
  | weakest {bs : List Bucket} {total : Nat} (q : Nat) (w : Word) (hcount : n < cellCount bs cells)
      (htotal : tgt < total) (hw : WeakestAt bs cells q w) :
      Removes n tgt cells (bs, total) (dropWeakest q bs, total - 1)

/-- A removal from one of several super-cells, which holds more than `least` entries. -/
def RemovesOne (least tgt : Nat) (scs : List (List Nat)) (g g' : List Bucket × Nat) : Prop :=
  ∃ cells ∈ scs, Removes least tgt cells g g'

/-- Any number of such removals. -/
abbrev RemovesMany (least tgt : Nat) (scs : List (List Nat)) : List Bucket × Nat → List Bucket × Nat → Prop :=
  Relation.ReflTransGen (RemovesOne least tgt scs)

theorem Removes.mono {n least tgt : Nat} {cells : List Nat} {g g' : List Bucket × Nat} (h : Removes n tgt cells g g')
    (hle : least ≤ n) : Removes least tgt cells g g' := by
  obtain ⟨q, w, hcount, htotal, hw⟩ := h
  exact .weakest q w (hle.trans_lt hcount) htotal hw

/-- The `while` of R197 is over, or removes one entry and goes on. -/
theorem trimCell_succ (n tgt : Nat) (cells : List Nat) (fuel : Nat) (g : List Bucket × Nat) :
    (trimCell n tgt cells (fuel + 1) g = g ∧ (cellCount g.1 cells ≤ n ∨ g.2 ≤ tgt)) ∨
      ∃ g', Removes n tgt cells g g' ∧ trimCell n tgt cells (fuel + 1) g = trimCell n tgt cells fuel g' := by
  obtain ⟨bs, total⟩ := g
  rw [trimCell]
  split
  next hgo =>
    obtain ⟨hcount, htotal⟩ := hgo
    cases hw : weakestCell bs cells with
    | none =>
      rw [cellCount_eq_zero (weakestCell_eq_none hw)] at hcount
      exact absurd hcount (Nat.not_lt_zero n)
    | some best => exact .inr ⟨_, .weakest _ _ hcount htotal (weakestCell_eq_some hw), rfl⟩
  next hstop => exact .inl ⟨rfl, by dsimp only; omega⟩

section

variable {least tgt : Nat} {scs : List (List Nat)}

theorem removesMany_trimCell {n : Nat} {cells : List Nat} (hle : least ≤ n) (hcells : cells ∈ scs) (fuel : Nat)
    (g : List Bucket × Nat) : RemovesMany least tgt scs g (trimCell n tgt cells fuel g) := by
  induction fuel generalizing g with
  | zero => exact .refl
  | succ fuel ih =>
    rcases trimCell_succ n tgt cells fuel g with ⟨heq, _⟩ | ⟨g', hstep, heq⟩ <;> rw [heq]
    exact .head ⟨cells, hcells, hstep.mono hle⟩ (ih g')

theorem removesMany_reduceLevel {n : Nat} {rest : List (List Nat)} (hle : least ≤ n)
    (hrest : ∀ cells ∈ rest, cells ∈ scs) (g : List Bucket × Nat) :
    RemovesMany least tgt scs g (reduceLevel n tgt rest g) := by
  induction rest generalizing g with
  | nil => exact .refl
  | cons cells rest ih =>
    obtain ⟨hcells, hrest⟩ := List.forall_mem_cons.mp hrest
    exact (removesMany_trimCell hle hcells _ g).trans (ih hrest _)

theorem removesMany_reduceLevels {mn st : Nat} (hmn : least ≤ mn) {n : Nat} (hle : least ≤ n) (fuel : Nat)
    (g : List Bucket × Nat) : RemovesMany least tgt scs g (reduceLevels mn st tgt scs fuel n g) := by
  induction fuel generalizing n g with
  | zero => exact .refl
  | succ fuel ih =>
    have hlevel : RemovesMany least tgt scs g (reduceLevel n tgt scs g) :=
      removesMany_reduceLevel hle (fun _ h => h) g
    rw [reduceLevels]
    split
    · exact hlevel
    · exact hlevel.trans (ih (hmn.trans (le_max_right _ mn)) _)

end

/-- GRID_REDUCE removes entries one by one, at no level below RED_MIN and RED_MAX (43_feature_grid R197, R198). -/
theorem removesMany_reduceGrid (g : Grid) (mn mx st tgt : Nat) :
    RemovesMany (min mn mx) tgt (superCells g.hb g.vb) (g.buckets, entryCount g.buckets) (reduceGrid g mn mx st tgt) :=
  removesMany_reduceLevels (min_le_left mn mx) (min_le_right mn mx) _ _

/-- What every removal keeps, the whole run keeps. -/
theorem RemovesMany.keeps {least tgt : Nat} {scs : List (List Nat)} {P : List Bucket → Nat → Prop}
    (hstep : ∀ cells ∈ scs, ∀ bs total q w, least < cellCount bs cells → tgt < total → WeakestAt bs cells q w →
      P bs total → P (dropWeakest q bs) (total - 1))
    {g g' : List Bucket × Nat} (h : RemovesMany least tgt scs g g') (hP : P g.1 g.2) : P g'.1 g'.2 := by
  induction h with
  | refl => exact hP
  | tail _ hlast ih =>
    obtain ⟨cells, hcells, q, w, hcount, htotal, hw⟩ := hlast
    exact hstep cells hcells _ _ q w hcount htotal hw ih

/-! ## The total -/

/-- The total counts the entries of all buckets, and is not taken below the target. -/
theorem total_reduceGrid (g : Grid) (mn mx st tgt : Nat) :
    (reduceGrid g mn mx st tgt).2 = entryCount (reduceGrid g mn mx st tgt).1 ∧
      min tgt (entryCount g.buckets) ≤ (reduceGrid g mn mx st tgt).2 := by
  refine (removesMany_reduceGrid g mn mx st tgt).keeps
    (P := fun bs total => total = entryCount bs ∧ min tgt (entryCount g.buckets) ≤ total) ?_ ⟨rfl, min_le_right _ _⟩
  intro cells _ bs total q w _ htotal hw ⟨hsum, hleast⟩
  obtain ⟨b, hb⟩ := hw.first
  have := entryCount_dropWeakest hb
  omega

/-! ## The super-cells -/

/-- A bucket's super-cell is told by its row and its column, halved. -/
theorem superCell_of_mem {hb vb q : Nat} {cells : List Nat} (hcells : cells ∈ superCells hb vb) (hq : q ∈ cells) :
    q / hb / 2 < vb / 2 ∧ q % hb / 2 < hb / 2 ∧ cells = superCell hb (q / hb / 2) (q % hb / 2) := by
  obtain ⟨si, hsi, hcells⟩ := List.mem_flatMap.mp hcells
  obtain ⟨sj, hsj, rfl⟩ := List.mem_map.mp hcells
  rw [List.mem_range'_1] at hsi hsj
  obtain ⟨i, j, hi, hj, rfl⟩ : ∃ i j, i / 2 = si ∧ j / 2 = sj ∧ q = i * hb + j := by
    simp only [superCell, List.mem_cons, List.not_mem_nil, or_false] at hq
    rcases hq with rfl | rfl | rfl | rfl <;> exact ⟨_, _, by omega, by omega, rfl⟩
  obtain ⟨hrow, hcol⟩ := cell_div_mod (i := i) (show j < hb by omega)
  rw [hrow, hcol, hi, hj]
  exact ⟨by omega, by omega, rfl⟩

/-- Two super-cells that share a bucket are one. -/
theorem superCells_disjoint {hb vb q : Nat} {cells cells' : List Nat} (hcells : cells ∈ superCells hb vb)
    (hcells' : cells' ∈ superCells hb vb) (hq : q ∈ cells) (hq' : q ∈ cells') : cells = cells' := by
  obtain ⟨_, _, heq⟩ := superCell_of_mem hcells hq
  obtain ⟨_, _, heq'⟩ := superCell_of_mem hcells' hq'
  exact heq.trans heq'.symm

theorem superCells_nodup {hb vb : Nat} {cells : List Nat} (hcells : cells ∈ superCells hb vb) : cells.Nodup := by
  obtain ⟨si, _, hcells⟩ := List.mem_flatMap.mp hcells
  obtain ⟨sj, hsj, rfl⟩ := List.mem_map.mp hcells
  rw [List.mem_range'_1] at hsj
  have hrow : (2 * si + 1) * hb = 2 * si * hb + hb := Nat.succ_mul _ _
  simp only [superCell, hrow, List.nodup_cons, List.mem_cons, List.not_mem_nil, or_false, not_false_eq_true,
    List.nodup_nil, and_true]
  omega

/-- The odd final row and column are in no super-cell. -/
theorem odd_edge_notMem {hb vb i j : Nat} {cells : List Nat} (hcells : cells ∈ superCells hb vb) (hj : j < hb)
    (hedge : vb % 2 = 1 ∧ i = vb - 1 ∨ hb % 2 = 1 ∧ j = hb - 1) : i * hb + j ∉ cells := by
  intro hq
  obtain ⟨hrow, hcol, _⟩ := superCell_of_mem hcells hq
  rw [(cell_div_mod hj).1] at hrow
  rw [(cell_div_mod hj).2] at hcol
  omega

/-! ## The quota -/

/-- No removal takes a super-cell below the least level, nor another super-cell at all. -/
theorem cellCount_reduceGrid_ge {g : Grid} {cells : List Nat} (hcells : cells ∈ superCells g.hb g.vb)
    (mn mx st tgt : Nat) :
    min (min mn mx) (cellCount g.buckets cells) ≤ cellCount (reduceGrid g mn mx st tgt).1 cells := by
  refine (removesMany_reduceGrid g mn mx st tgt).keeps
    (P := fun bs _ => min (min mn mx) (cellCount g.buckets cells) ≤ cellCount bs cells) ?_ (min_le_right _ _)
  intro cells' hcells' bs total q w hcount _ hw hleast
  by_cases hq : q ∈ cells
  · obtain rfl := superCells_disjoint hcells hcells' hq hw.mem
    obtain ⟨b, hb⟩ := hw.first
    have := cellCount_dropWeakest_of_mem (superCells_nodup hcells) hq hb
    omega
  · rwa [cellCount_dropWeakest_of_notMem hq]

/-- With enough fuel the `while` of R197 ends as it says: at the level, or at the target. -/
theorem trimCell_done {n tgt : Nat} {cells : List Nat} (hcells : cells.Nodup) {fuel : Nat} {g : List Bucket × Nat}
    (hfuel : cellCount g.1 cells ≤ fuel) :
    cellCount (trimCell n tgt cells fuel g).1 cells ≤ n ∨ (trimCell n tgt cells fuel g).2 ≤ tgt := by
  induction fuel generalizing g with
  | zero => exact .inl (hfuel.trans (Nat.zero_le n))
  | succ fuel ih =>
    rcases trimCell_succ n tgt cells fuel g with ⟨heq, hdone⟩ | ⟨g', hstep, heq⟩ <;> rw [heq]
    · exact hdone
    · refine ih ?_
      obtain ⟨_, _, _, _, hw⟩ := hstep
      obtain ⟨b, hb⟩ := hw.first
      exact Nat.le_of_succ_le_succ ((cellCount_dropWeakest_of_mem hcells hw.mem hb).le.trans hfuel)

/-- At the target nothing is removed. -/
theorem trimCell_of_le {n tgt : Nat} {cells : List Nat} {fuel : Nat} {g : List Bucket × Nat} (h : g.2 ≤ tgt) :
    trimCell n tgt cells fuel g = g := by
  cases fuel with
  | zero => rfl
  | succ fuel =>
    rcases trimCell_succ n tgt cells fuel g with ⟨heq, _⟩ | ⟨_, ⟨_, _, _, htotal, _⟩, _⟩
    · exact heq
    · exact absurd h (Nat.not_le.mpr htotal)

theorem reduceLevel_of_le {n tgt : Nat} {scs : List (List Nat)} {g : List Bucket × Nat} (h : g.2 ≤ tgt) :
    reduceLevel n tgt scs g = g := by
  induction scs with
  | nil => rfl
  | cons cells scs ih => rw [reduceLevel, trimCell_of_le h, ih]

theorem reduceGrid_of_le {g : Grid} {mn mx st tgt : Nat} (h : entryCount g.buckets ≤ tgt) :
    reduceGrid g mn mx st tgt = (g.buckets, entryCount g.buckets) := by
  rw [reduceGrid, reduceLevels, reduceLevel_of_le h]
  exact if_pos (.inl h)

/-- After a level, the target is met or every super-cell is at the level. -/
theorem reduceLevel_done {n tgt : Nat} {scs : List (List Nat)} (hscs : ∀ cells ∈ scs, cells.Nodup)
    (g : List Bucket × Nat) :
    (reduceLevel n tgt scs g).2 ≤ tgt ∨ ∀ cells ∈ scs, cellCount (reduceLevel n tgt scs g).1 cells ≤ n := by
  induction scs generalizing g with
  | nil => exact .inr fun _ h => by cases h
  | cons cells scs ih =>
    obtain ⟨hcells, hscs⟩ := List.forall_mem_cons.mp hscs
    rw [reduceLevel]
    rcases trimCell_done (n := n) (tgt := tgt) hcells (le_refl (cellCount g.1 cells)) with hcount | htotal
    · refine (ih hscs _).imp_right fun hrest => List.forall_mem_cons.mpr ⟨?_, hrest⟩
      exact (cellCount_le_of_trims (trims_reduceLevel _ _ _ _) _).trans hcount
    · rw [reduceLevel_of_le htotal]
      exact .inl htotal

/-- The levels go down to RED_MIN, or the target is met first (43_feature_grid R198). -/
theorem reduceLevels_done {mn st tgt : Nat} {scs : List (List Nat)} (hscs : ∀ cells ∈ scs, cells.Nodup) (hst : 1 ≤ st)
    {fuel n : Nat} (hfuel : n - mn < fuel) (g : List Bucket × Nat) :
    (reduceLevels mn st tgt scs fuel n g).2 ≤ tgt ∨
      ∀ cells ∈ scs, cellCount (reduceLevels mn st tgt scs fuel n g).1 cells ≤ mn := by
  induction fuel generalizing n g with
  | zero => exact absurd hfuel (Nat.not_lt_zero _)
  | succ fuel ih =>
    rw [reduceLevels]
    split
    next hexit =>
      rcases hexit with htotal | hn
      · exact .inl htotal
      · exact (reduceLevel_done hscs g).imp_right fun h cells hcells => (h cells hcells).trans hn
    next => exact ih (by omega) _

/-- Settles O50: the levels end at the quota, and a removal is made only where total and super-cell are above theirs. -/
theorem reduceMeetsItsQuota : Obligations.ReduceMeetsItsQuota := by
  intro g mn mx st tgt hst hle
  obtain ⟨htotal, hleast⟩ := total_reduceGrid g mn mx st tgt
  refine ⟨?_, fun h => by rw [reduceGrid_of_le h], htotal ▸ hleast, fun cells hcells => ?_⟩
  · rw [← htotal]
    exact reduceLevels_done (fun _ => superCells_nodup) hst (Nat.lt_succ_self _) _
  · have := cellCount_reduceGrid_ge hcells mn mx st tgt
    rwa [min_eq_left hle] at this

/-! ## Only the weakest go -/

/-- What some cells have lost, all at the weak end of their buckets, is not stronger than anything they hold. -/
def LostWeaker (bs₀ bs : List Bucket) (cells : List Nat) : Prop :=
  ∀ q ∈ cells, ∀ lost, lost ++ bucketAt bs q = bucketAt bs₀ q →
    ∀ q' ∈ cells, ∀ u ∈ lost, ∀ v ∈ bucketAt bs q', u.toNat ≤ v.toNat

theorem lostWeaker_refl (bs : List Bucket) (cells : List Nat) : LostWeaker bs bs cells := by
  intro q _ lost hlost q' _ u hu
  rw [List.append_left_eq_self.mp hlost] at hu
  cases hu

/-- A bucket that holds something begins with its weakest entry, so the weakest first entry is the weakest of all. -/
theorem WeakestAt.le {bs : List Bucket} {cells : List Nat} {q : Nat} {w : Word} (h : WeakestAt bs cells q w)
    (hasc : ∀ q, Ascending (bucketAt bs q)) {q' : Nat} (hq' : q' ∈ cells) {v : Word} (hv : v ∈ bucketAt bs q') :
    w.toNat ≤ v.toNat := by
  cases hb : bucketAt bs q' with
  | nil => rw [hb] at hv; cases hv
  | cons u b =>
    have hbasc := hasc q'
    rw [hb] at hv hbasc
    exact (h.least q' hq' u b hb).trans (weakest_le hbasc v hv)

theorem LostWeaker.dropWeakest {bs₀ bs : List Bucket} {cells : List Nat} {q : Nat} {w : Word}
    (h : LostWeaker bs₀ bs cells) (htrims : Trims bs₀ bs) (hasc : ∀ q, Ascending (bucketAt bs q))
    (hw : q ∈ cells → WeakestAt bs cells q w) : LostWeaker bs₀ (dropWeakest q bs) cells := by
  intro p hp lost hlost q' hq' u hu v hv
  replace hv : v ∈ bucketAt bs q' := ((trims_dropWeakest q bs).suffix q').mem hv
  rw [bucketAt_dropWeakest] at hlost
  split at hlost
  next hpq =>
    subst hpq
    obtain ⟨b, hb⟩ := (hw hp).first
    obtain ⟨before, hbefore⟩ := htrims.suffix p
    have hlost : lost = before ++ [w] := by
      rw [← hbefore, hb, List.tail_cons, List.append_cons before w b] at hlost
      exact List.append_cancel_right hlost
    rw [hlost, List.mem_append, List.mem_singleton] at hu
    rcases hu with hu | rfl
    · exact h p hp before hbefore q' hq' u hu v hv
    · exact (hw hp).le hasc hq' hv
  next => exact h p hp lost hlost q' hq' u hu v hv

theorem ascending_bucketAt {bs : List Bucket} (h : ∀ b ∈ bs, Ascending b) (q : Nat) : Ascending (bucketAt bs q) :=
  getD_of_forall_mem h List.Pairwise.nil q

theorem Trims.ascending {bs bs' : List Bucket} (h : Trims bs bs') (hasc : ∀ q, Ascending (bucketAt bs q)) (q : Nat) :
    Ascending (bucketAt bs' q) := (hasc q).sublist (h.suffix q).sublist

theorem lostWeaker_reduceGrid {g : Grid} (hasc : ∀ b ∈ g.buckets, Ascending b) {cells : List Nat}
    (hcells : cells ∈ superCells g.hb g.vb) (mn mx st tgt : Nat) :
    LostWeaker g.buckets (reduceGrid g mn mx st tgt).1 cells := by
  refine ((removesMany_reduceGrid g mn mx st tgt).keeps
    (P := fun bs _ => Trims g.buckets bs ∧ LostWeaker g.buckets bs cells) ?_
    ⟨trims_refl _, lostWeaker_refl _ _⟩).2
  intro cells' hcells' bs total q w _ _ hw ⟨htrims, hlost⟩
  refine ⟨htrims.trans (trims_dropWeakest _ _), ?_⟩
  refine hlost.dropWeakest (w := w) htrims (htrims.ascending (ascending_bucketAt hasc)) fun hq => ?_
  exact superCells_disjoint hcells hcells' hq hw.mem ▸ hw

theorem bucketAt_reduceGrid_of_notMem {g : Grid} {q : Nat} (hq : ∀ cells ∈ superCells g.hb g.vb, q ∉ cells)
    (mn mx st tgt : Nat) : bucketAt (reduceGrid g mn mx st tgt).1 q = bucketAt g.buckets q := by
  refine (removesMany_reduceGrid g mn mx st tgt).keeps (P := fun bs _ => bucketAt bs q = bucketAt g.buckets q) ?_ rfl
  intro cells hcells bs total p w _ _ hw hsame
  rw [bucketAt_dropWeakest, if_neg, hsame]
  rintro rfl
  exact hq cells hcells hw.mem

/-- How many entries GRID_REDUCE takes from bucket `q`. -/
def cutOf (bs bs' : List Bucket) (q : Nat) : Nat := (bucketAt bs q).length - (bucketAt bs' q).length

theorem Trims.eq_drop {bs bs' : List Bucket} (h : Trims bs bs') (q : Nat) :
    bucketAt bs' q = (bucketAt bs q).drop (cutOf bs bs' q) := List.suffix_iff_eq_drop.mp (h.suffix q)

/-- Settles O51: what is lost stands at the weak ends, and each removal takes the weakest of its super-cell. -/
theorem reduceKeepsTheStrongest : Obligations.ReduceKeepsTheStrongest := by
  intro g mn mx st tgt _ hasc
  have htrims := trims_reduceGrid g mn mx st tgt
  refine ⟨cutOf g.buckets (reduceGrid g mn mx st tgt).1, htrims.eq_drop, fun cells hcells q hq q' hq' => ?_,
    fun i j _ hj hedge => bucketAt_reduceGrid_of_notMem (fun cells hcells => odd_edge_notMem hcells hj hedge) _ _ _ _⟩
  refine lostWeaker_reduceGrid hasc hcells mn mx st tgt q hq _ ?_ q' hq'
  rw [htrims.eq_drop q, List.take_append_drop]

/-! ## GRID_REDUCE completes -/

/-- Settles O37: the work is done in one step, and the total it leaves counts the entries left. -/
theorem gridReduceTrimsTheGrid : Obligations.GridReduceTrimsTheGrid := by
  intro s hvalid hlegal
  have hexec : exec .gridReduce s = .next s.reduce.refreshTotal.finish :=
    exec_of_finale_ok ⟨hlegal, if_pos hvalid⟩ (gridJob_safe rfl) rfl (after_entered rfl hlegal) rfl
  have htotal := (total_reduceGrid s.grid s.regs.redMin.toNat s.regs.redMax.toNat s.regs.redStep.toNat
    s.regs.redTarget.toNat).1
  have hshown : (if s.reduce.status.gridValid then BitVec.ofNat 32 (entryCount s.reduce.grid.buckets) else 0) =
      s.reduce.gridTotal := (if_pos hvalid).trans (congrArg (BitVec.ofNat 32) htotal.symm)
  rw [hexec, State.refreshTotal, hshown, ← htotal]
  rfl

end Sys2Proof.Proofs
end

section
/-! GRID_INDEX and GRID_QUERY complete: every entry with its bucket's start, and every feature of the area
(43_feature_grid R201, R204, R207). -/

namespace Sys2Proof.Proofs

open Sys2Proof.Machine Sys2Proof.Safety

variable {i : Instr} {s : State}

/-- What the work of GRID_INDEX or GRID_QUERY leaves that appends all its elements. -/
structure GridAppended (i : Instr) (s u : State) : Prop where
  appended : Appended { enteredState i s with index := u.index } u 4 (wholeOutput s i) (wholeBytes s i)
  status : u.status = (enteredState i s).status
  errInfo : u.errInfo = s.errInfo

/-- What either command sets when its work is done leaves the grid and GRID_TOTAL as they were, so that GRID_TOTAL need
not be set again. -/
theorem GridAppended.refreshed_finale {c c' : Run} (h : GridAppended i s c.st) (hi : i = .gridIndex ∨ i = .gridQuery)
    (hgrid : GridOk s) (hfinale : finale i s c = .ok () c') : refreshed i c'.st = c'.st := by
  obtain ⟨⟨hframe, _⟩, hstatus, _⟩ := h
  have hvalid : c.st.status.gridValid = s.status.gridValid := by
    rw [hstatus]
    rcases hi with rfl | rfl <;> rfl
  rcases hi with rfl | rfl <;> cases hfinale <;>
    exact refreshed_of_gridOk hgrid (by rw [hframe]; rfl) hvalid (by rw [hframe]; rfl)

/-- With a valid grid, legal registers and room, either command appends all its elements and ends without an error. -/
theorem exec_gridAppends (hi : i = .gridIndex ∨ i = .gridQuery) (hpass : Passes i s) (hgrid : GridOk s)
    (hroom : Room s 4 (wholeOutput s i)) :
    ∃ c c', work i s (entered i s) = .ok () c ∧ GridAppended i s c.st ∧ finale i s c = .ok () c' ∧
      exec i s = .next c'.st.finish := by
  obtain ⟨hlegal, hmissing⟩ := hpass
  obtain ⟨hm, hsize, hcommand, hreads, hgood⟩ : writesMarks i = false ∧ elementSize i = some 4 ∧
      isGridCommand i = true ∧ wholeReads s i = [] ∧ GoodInputs s i := by
    rcases hi with rfl | rfl <;> exact ⟨rfl, rfl, rfl, rfl, trivial⟩
  have hadm : AllAdmitted s.params (wholeReads s i) := fun a ha => by rw [hreads] at ha; cases ha
  have hJ : (wholeJob i s).Safe := gridJob_safe hcommand
  have htotal := length_outputs_whole hlegal hmissing (fun _ => hgrid) hadm
  obtain ⟨c, hc, hes⟩ := work_finishes hm hlegal hJ hgood hadm (htotal ▸ hroom.1)
    (by rw [esizeOf, hsize, htotal]; exact hroom.2)
  have happended : GridAppended i s c.st := by
    have hmemory := hes.memory hsize
    rw [flatten_outputs_whole hlegal hmissing (fun _ => hgrid) hadm] at hmemory
    have hframe := hes.frame
    rw [htotal] at hframe
    rcases hi with rfl | rfl <;>
      exact ⟨⟨by rw [hframe]; rfl, hmemory⟩, by rw [hframe]; rfl, by rw [hframe]; rfl⟩
  obtain ⟨c', hfinale, _⟩ := finale_ok i s c
  have hexec := exec_of_finale_ok ⟨hlegal, hmissing⟩ hJ hc hes hfinale
  rw [happended.refreshed_finale hi hgrid hfinale] at hexec
  exact ⟨c, c', hc, happended, hfinale, hexec⟩

/-- Settles O38: the work appends the entries and gives each bucket its slot, and the index is valid at the end. -/
theorem gridIndexAppendsEveryEntry : Obligations.GridIndexAppendsEveryEntry := by
  intro s hvalid hgrid hlegal hroom
  obtain ⟨c, _, hc, ⟨⟨hframe, hmemory⟩, hstatus, herr⟩, hfinale, hexec⟩ :=
    exec_gridAppends (.inl rfl) ⟨hlegal, if_pos hvalid⟩ hgrid hroom
  cases hfinale
  obtain ⟨_, hslots⟩ : Indexed s.grid s.dropIndex (s.grid.vb * s.grid.hb) c.st :=
    indexed_of_loops (c := entered .gridIndex s) (room_of_legal (i := .gridIndex) rfl hlegal) hc
  refine ⟨_, hexec, ⟨?_, hmemory⟩, ?_, herr, fun i j hi hj => hslots _ (cell_lt hi hj)⟩
  · rw [hframe]
    rfl
  · rw [State.finish_status, State.validateIndex_status, hstatus]
    rfl

/-- Settles O39: the cells that the work visits hold every feature of the area, and the index stays as it is. -/
theorem gridQueryAppendsTheAreaFeatures : Obligations.GridQueryAppendsTheAreaFeatures := by
  intro s hvalid hindexed hgrid hlegal hroom
  obtain ⟨c, _, _, ⟨⟨hframe, hmemory⟩, hstatus, herr⟩, hfinale, hexec⟩ :=
    exec_gridAppends (.inr rfl) ⟨hlegal, (if_pos hvalid).trans (if_pos hindexed)⟩ hgrid hroom
  cases hfinale
  have hindex : c.st.index = s.index := index_of_exec (i := .gridQuery) (t := c.st.finish) (by decide) hexec
  rw [hindex] at hframe
  refine ⟨_, hexec, ⟨?_, hmemory⟩, ?_, herr⟩
  · rw [hframe]
    rfl
  · rw [State.finish_status, hstatus]
    rfl

end Sys2Proof.Proofs
end

section
/-! The grid after GRID_BUCKET: the bucket of a cell is filled by the survivors of that cell alone, so it holds the K
largest of their words (42_nms_extract R164, R168, 43_feature_grid R196). -/

namespace Sys2Proof.Proofs

open Sys2Proof.Machine Sys2Proof.Safety

variable {s t : State} {r : ParamRegs} {i j : Nat} {vs : List Survivor} {bs : List Bucket}

/-! ## One bucket of the filled grid -/

/-- An insertion into a bucket of the list reaches that bucket. -/
theorem bucketAt_insertInto_self {k : Nat} {w : Word} {n : Nat} (hn : n < bs.length) :
    bucketAt (insertInto k w n bs) n = bucketInsert k w (bucketAt bs n) := by
  induction bs generalizing n with
  | nil => exact absurd hn (Nat.not_lt_zero n)
  | cons b bs ih =>
    cases n with
    | zero => rfl
    | succ n => exact ih (Nat.lt_of_succ_lt_succ hn)

theorem bucketAt_insertInto_of_ne {k : Nat} {w : Word} {n q : Nat} (hq : q ≠ n) :
    bucketAt (insertInto k w n bs) q = bucketAt bs q :=
  (bucketAt_insertInto k w n q bs).resolve_right fun h => hq h.1

/-- A survivor lies in cell (i, j) (42_nms_extract R164). -/
abbrev LiesIn (r : ParamRegs) (i j : Nat) (v : Survivor) : Prop := bucketRow r v = i ∧ bucketCol r v = j

theorem cellSurvivors_eq (r : ParamRegs) (vs : List Survivor) (i j : Nat) :
    cellSurvivors r vs i j = vs.filter fun v => decide (LiesIn r i j v) := by
  simp only [LiesIn, Bool.decide_and]
  rfl

theorem mem_cellSurvivors {v : Survivor} : v ∈ cellSurvivors r vs i j ↔ v ∈ vs ∧ LiesIn r i j v := by
  rw [cellSurvivors_eq, List.mem_filter, decide_eq_true_eq]

/-- A survivor is inserted into the bucket of its cell and into no other. -/
theorem bucketAt_insertGrid {v : Survivor} (hj : j < gridCols r) (hq : i * gridCols r + j < bs.length)
    (hcol : bucketCol r v < gridCols r) :
    bucketAt (insertGrid r bs v) (i * gridCols r + j) =
      if LiesIn r i j v then bucketInsert r.bktK.toNat v.word (bucketAt bs (i * gridCols r + j))
      else bucketAt bs (i * gridCols r + j) := by
  have howner : ownerBucket (gridCols r) r.border.toNat r.logBkt.toNat v.x v.y =
      bucketRow r v * gridCols r + bucketCol r v := rfl
  rw [insertGrid, howner]
  split
  next h =>
    obtain ⟨rfl, rfl⟩ := h
    exact bucketAt_insertInto_self hq
  next h =>
    refine bucketAt_insertInto_of_ne fun heq => h ?_
    obtain ⟨hrow, hcol⟩ := cell_div_mod (i := bucketRow r v) hcol
    rw [← heq] at hrow hcol
    exact ⟨hrow.symm.trans (cell_div_mod hj).1, hcol.symm.trans (cell_div_mod hj).2⟩

/-- The bucket of a cell has had the words of the cell's survivors inserted, in order. -/
theorem bucketAt_foldl_insertGrid (hj : j < gridCols r) (hq : i * gridCols r + j < bs.length)
    (hcol : ∀ v ∈ vs, bucketCol r v < gridCols r) :
    bucketAt (vs.foldl (insertGrid r) bs) (i * gridCols r + j) =
      (wordsOf (cellSurvivors r vs i j)).foldl (fun b w => bucketInsert r.bktK.toNat w b)
        (bucketAt bs (i * gridCols r + j)) := by
  induction vs generalizing bs with
  | nil => rfl
  | cons v vs ih =>
    obtain ⟨hv, hcol⟩ := List.forall_mem_cons.mp hcol
    have hlen : (insertGrid r bs v).length = bs.length := length_insertInto _ _ _ _
    rw [List.foldl_cons, ih (hlen ▸ hq) hcol, bucketAt_insertGrid hj hq hv, cellSurvivors_eq, cellSurvivors_eq]
    by_cases h : LiesIn r i j v
    · rw [if_pos h, List.filter_cons, if_pos (decide_eq_true h)]
      rfl
    · rw [if_neg h, List.filter_cons, if_neg fun hv => h (of_decide_eq_true hv)]

theorem bucketCol_lt {v : Survivor} (hv : InRegion r v) : bucketCol r v < gridCols r := by
  obtain ⟨⟨hx, hx'⟩, hy, hy'⟩ := hv
  rw [gridCols, geometry_nonempty _ (by omega) (by omega)]
  exact cell_lt_bucketsAlong hx hx'

/-- Each bucket of the filled grid holds the K largest words of its cell. -/
theorem holdsLargest_fillGrid (hk : 1 ≤ r.bktK.toNat) (hi : i < gridRows r) (hj : j < gridCols r)
    (hvs : ∀ v ∈ vs, InRegion r v) :
    HoldsLargest r.bktK.toNat (wordsOf (cellSurvivors r vs i j))
      (bucketAt (fillGrid r vs) (i * gridCols r + j)) := by
  have hq : i * gridCols r + j < (emptyBuckets (gridCols r * gridRows r)).length := by
    rw [emptyBuckets, List.length_replicate, Nat.mul_comm (gridCols r)]
    exact cell_lt hi hj
  rw [fillGrid_eq, bucketAt_foldl_insertGrid hj hq fun v hv => bucketCol_lt (hvs v hv), bucketAt_emptyBuckets]
  exact insertionKeepsTheLargestWords _ _ hk

/-- A survivor's word holds its position. -/
theorem kp_word {v : Survivor} (hv : InRegion r v) (hw : r.width.toNat ≤ 4096) (hh : r.height.toNat ≤ 4096) :
    (kpX v.word).toNat = v.x ∧ (kpY v.word).toNat = v.y := by
  obtain ⟨⟨_, hx⟩, _, hy⟩ := hv
  rw [Survivor.word, kpX_pack, kpY_pack, BitVec.toNat_ofNat, BitVec.toNat_ofNat]
  exact ⟨Nat.mod_eq_of_lt (by omega), Nat.mod_eq_of_lt (by omega)⟩

/-- What some words' K largest are among, they are among. -/
theorem mem_of_holdsLargest {k : Nat} {ws b : List Word} (h : HoldsLargest k ws b) {w : Word} (hw : w ∈ b) :
    w ∈ ws := by
  obtain ⟨_, _, _, hperm, _⟩ := h
  exact hperm.subset (List.mem_append_left _ hw)

/-! ## The command -/

/-- What the checks of GRID_BUCKET say of the registers (43_feature_grid R194). -/
theorem bounds_of_gridBucket (h : Legal .gridBucket s) :
    s.regs.width.toNat ≤ 4096 ∧ s.regs.height.toNat ≤ 4096 ∧ 1 ≤ s.regs.bktK.toNat := by
  have hw := not_bad_of_legal h (k := (decide (4096 < s.regs.width.toNat), 0x01C)) (by simp [paramChecks, rasterChecks])
  have hh := not_bad_of_legal h (k := (decide (4096 < s.regs.height.toNat), 0x020))
    (by simp [paramChecks, rasterChecks])
  have hk := not_bad_of_legal h
    (k := (decide (s.regs.bktK.toNat = 0 ∨ s.params.maxK.toNat < s.regs.bktK.toNat), 0x034))
    (by simp [paramChecks, bucketChecks])
  have hk := of_decide_eq_false hk
  exact ⟨Nat.not_lt.mp (of_decide_eq_false hw), Nat.not_lt.mp (of_decide_eq_false hh), by omega⟩

/-- A GRID_BUCKET that leaves a valid grid has read every mark of the walk: a refused one leaves no grid. -/
theorem admitted_of_gridBucket (hlegal : Legal .gridBucket s) (h : exec .gridBucket s = .next t)
    (hvalid : t.status.gridValid = true) : AllAdmitted s.params (walkReads s.regs) := by
  obtain ⟨b, hout⟩ := work_outcome rfl hlegal (gridJob_safe (i := .gridBucket) rfl)
  rcases exec_next_of_passes ⟨hlegal, rfl⟩ h with ⟨c, _, hc, _⟩ | ⟨e, info, c, hc, rfl⟩ <;> rw [hc] at hout
  · obtain ⟨_, _, hadm⟩ | _ := hout
    exact hadm
  · obtain _ | ⟨_, hes, _⟩ := hout
    have hnone := ((noGrid_of_after (.inr rfl) hes).refreshed .gridBucket).raise e info
    cases hnone.gridValid.symm.trans hvalid

/-- Settles O49: the grid left is the filled one, and each of its buckets was filled by its own cell. -/
theorem gridCellsHoldTheirLargestWords : Obligations.GridCellsHoldTheirLargestWords := by
  intro s t i j hlegal h hvalid hi hj
  rw [exec_gridBucket hlegal (admitted_of_gridBucket hlegal h hvalid)] at h
  cases h
  obtain ⟨hw, hh, hk⟩ := bounds_of_gridBucket hlegal
  have hregion (v : Survivor) (hv : v ∈ survivors s) : InRegion s.regs v := (mem_survivors.mp hv).1
  have hlargest := holdsLargest_fillGrid hk hi hj hregion
  refine ⟨hlargest, fun kp hkp => ?_⟩
  obtain ⟨v, hv, rfl⟩ := List.mem_map.mp (mem_of_holdsLargest hlargest hkp)
  obtain ⟨hv, hrow, hcol⟩ := mem_cellSurvivors.mp hv
  obtain ⟨hx, hy⟩ := kp_word (hregion v hv) hw hh
  rw [hx, hy]
  exact ⟨hcol, hrow⟩

end Sys2Proof.Proofs
end

section
/-! A job that an input stops: whatever nothing else stops comes to that input, with the elements before it appended.
CENTROID at the first keypoint without its margin (44_orb_centroid R223, R225, 60_exceptions R274). -/

namespace Sys2Proof.Proofs

open Sys2Proof.Machine Sys2Proof.Safety

variable {J : Job} {b b' : List Bucket} {α β : Type}

/-! ## A part that ends with a given error -/

/-- Nothing stops a job of `n` elements: no refused address, no want of room, no bad input. -/
def Job.Clear (J : Job) (n : Nat) : Prop := ∀ m e info, ¬ Stops J n m e info

theorem Job.Clear.mono {n n' : Nat} (h : J.Clear n) (hn : n' ≤ n) : J.Clear n' :=
  fun m e info hstop => h m e info (hstop.mono hn)

/-- From every run of a job that nothing stops, a part ends with the error `e` and all of `out` appended. -/
def Raises (J : Job) (x : Cmd α) (b : List Bucket) (out : List (List Byte)) (e : ErrCode) (info : Word) : Prop :=
  ∀ es c, (es ++ out).length ≤ J.total → J.Clear (es ++ out).length → After J es c → c.buckets = b →
    ∃ c', x c = .err e info c' ∧ After J (es ++ out) c'

theorem Raises.raise {e : ErrCode} {info : Word} : Raises J (Cmd.raise e info : Cmd α) b [] e info :=
  fun es c _ _ hes _ => ⟨c, rfl, by rwa [List.append_nil]⟩

/-- What follows an error is not done. -/
theorem Raises.bind {x : Cmd α} {f : α → Cmd β} {out : List (List Byte)} {e : ErrCode} {info : Word}
    (hx : Raises J x b out e info) : Raises J (Cmd.bind x f) b out e info := by
  intro es c hlen hclear hes hb
  obtain ⟨c', hc', hes'⟩ := hx es c hlen hclear hes hb
  exact ⟨c', Cmd.bind_err hc', hes'⟩

/-- A part that nothing stops, and then one that ends with an error. -/
theorem Emits.raises {x : Cmd α} {f : α → Cmd β} {rd : List Int} {v : α} {out out' : List (List Byte)} {e : ErrCode}
    {info : Word} (hx : Emits J x b b' rd v out) (hf : Raises J (f v) b' out' e info) :
    Raises J (Cmd.bind x f) b (out ++ out') e info := by
  intro es c hlen hclear hes hb
  rw [← List.append_assoc] at hlen hclear ⊢
  have hle : (es ++ out).length ≤ (es ++ out ++ out').length := (List.prefix_append _ _).length_le
  have h := hx es c (hle.trans hlen) hes hb
  cases hxc : x c with
  | ok _ c' =>
    rw [hxc] at h
    obtain ⟨hes', hb', _⟩ | _ := h
    rw [Cmd.bind_ok hxc]
    exact hf (es ++ out) c' hlen hclear hes' hb'
  | err _ _ c' =>
    rw [hxc] at h
    obtain _ | ⟨_, _, hstop⟩ := h
    exact absurd hstop (hclear.mono hle _ _ _)

/-- A part that appends nothing, and then one that ends with an error. -/
theorem Emits.thenRaises {x : Cmd α} {f : α → Cmd β} {rd : List Int} {v : α} {out : List (List Byte)} {e : ErrCode}
    {info : Word} (hx : Emits J x b b' rd v []) (hf : Raises J (f v) b' out e info) :
    Raises J (Cmd.bind x f) b out e info := Emits.raises (out := []) hx hf

/-! ## A keypoint without its margin -/

theorem boundedKeypoint_raises (hJ : J.Safe) {k : Nat} (hk : J.ReadsWord k) (hmargin : ¬ InMargin J.start k) :
    Raises J (boundedKeypoint J.start.regs k) b [] .kpBounds (BitVec.ofNat 32 k) := by
  refine (hk.emits hJ).thenRaises ?_
  rw [if_neg fun h => hmargin ((inMargin_iff J.start k).mp h)]
  exact .raise

theorem centroidLane_raises (hJ : J.Safe) {k : Nat} (hlt : k < J.start.regs.inCount.toNat) (hk : J.ReadsWord k)
    (hmargin : ¬ InMargin J.start k) :
    Raises J (Machine.centroidLane J.start.params J.start.regs k) b [] .kpBounds (BitVec.ofNat 32 k) := by
  unfold Machine.centroidLane
  rw [if_pos hlt]
  exact (boundedKeypoint_raises hJ hk hmargin).bind

/-- The group of keypoint k appends nothing: its lanes are computed before its words are written (R222). -/
theorem centroidGroup_raises (hJ : J.Safe) {k : Nat} (hlt : k < J.start.regs.inCount.toNat)
    (hlane : ∀ j, j < k → J.Lane j) (hk : J.ReadsWord k) (hmargin : ¬ InMargin J.start k) :
    Raises J (Machine.centroidGroup J.start.params J.start.regs (k / 4)) b [] .kpBounds (BitVec.ofNat 32 k) := by
  obtain ⟨m, hm⟩ : ∃ m, 4 = k % 4 + (m + 1) := ⟨4 - k % 4 - 1, by omega⟩
  have hat : 4 * (k / 4) + k % 4 = k := Nat.div_add_mod k 4
  unfold Machine.centroidGroup
  refine Raises.bind ?_
  generalize hlo : 4 * (k / 4) = lo at hat
  rw [hm, mapRange_add, hat]
  refine Emits.thenRaises (.mapRange fun j hj => .centroidLane hJ fun _ => hlane j ?_) ?_
  · rw [List.mem_range'_1] at hj
    omega
  · exact (centroidLane_raises hJ hlt hk hmargin).bind.bind

/-- CENTROID with keypoint k the first without its margin: the groups before its own, and KP_BOUNDS. -/
theorem centroid_raises {s : State} (hJ : J.Safe) (hs : J.start = s) (he : J.esize = 4) {k : Nat}
    (hlt : k < s.regs.inCount.toNat) (hlane : ∀ j, j < k → J.Lane j) (hk : J.ReadsWord k) (hmargin : ¬ InMargin s k) :
    Raises J (work .centroid s) b ((centroidWords s (k / 4)).map wordBytes) .kpBounds (BitVec.ofNat 32 k) := by
  subst hs
  obtain ⟨m, hm⟩ : ∃ m, (J.start.regs.inCount.toNat + 3) / 4 = k / 4 + (m + 1) :=
    ⟨(J.start.regs.inCount.toNat + 3) / 4 - k / 4 - 1, by omega⟩
  dsimp only [work]
  rw [hm, forRange_add, Nat.zero_add, Cmd.forRange_succ, ← List.append_nil (List.map wordBytes _)]
  exact (Emits.centroidGroups hJ he fun j hj _ => hlane j (by omega)).raises
    (centroidGroup_raises hJ hlt hlane hk hmargin).bind

/-! ## The end of a command that only appends -/

variable {i : Instr} {s : State} {joined asked : List Int} {bad : Prop}

/-- A job is clear that has room and whose addresses are admitted, where no input is bad. -/
theorem clear_jobOf {e n : Nat} (he : elementSize i = some e) (hasked : AllAdmitted s.params asked)
    (hroom : Room s e n) : (jobOf i s joined asked False).Clear n := by
  intro m code info hstop
  obtain ⟨hcap, hout⟩ := hroom
  rcases stops_jobOf hstop with
    ⟨_, a, _, href, ha, _⟩ | ⟨_, hlt, _, a, _, href, hlow⟩ | ⟨_, _, hlt, hfull⟩ | ⟨hbad, _⟩
  · cases href.symm.trans (hasked a ha)
  · rw [he, Option.getD_some] at hlow
    cases href.symm.trans (hout a (mem_outAddrs_of_lowest hlt hlow))
  · omega
  · exact hbad

/-- A command that only appends, stopped by an error after some elements, has appended them and recorded the error. -/
theorem exec_of_appending_err {c : Run} {es : List (List Byte)} {e : Nat} {code : ErrCode} {info : Word}
    (hi : onlyAppends i = true) (he : elementSize i = some e) (hlegal : Legal i s)
    (hJ : (jobOf i s joined asked bad).Safe) (h : work i s (entered i s) = .err code info c)
    (hes : After (jobOf i s joined asked bad) es c) :
    ∃ t, exec i s = .next t ∧ Appended s t e es.length es.flatten ∧ EndedBadly s t code info := by
  have honly := onlyAppends_spec hi s
  have hbody : body i s s.begin = .err code info c :=
    (body_passes ⟨hlegal, honly.missing⟩).trans (Cmd.bind_err h)
  have hexec : exec i s = .next (c.st.raise code info) := by
    rw [exec_eq, runCommand_err hbody fun a hw hr => hJ a (hes.writes a hw) (hes.reads a hr), honly.refreshed]
  have hother : i ≠ .gridIndex := by rintro rfl; cases hi
  have hindex : c.st.index = s.index := index_of_exec (t := c.st.raise code info) hother hexec
  have hframe := hes.frame
  rw [show (jobOf i s joined asked bad).start = s from honly.start, jobOf_esize, he, Option.getD_some, hindex] at hframe
  refine ⟨_, hexec, ⟨?_, fun k hk => ?_, fun a ha => ?_⟩, ?_⟩ <;> rw [hframe]
  · rfl
  · exact Memory.read_writeBytes_inside _ _ _ _ hk
  · exact Memory.read_writeBytes_outside _ _ _ _ ha
  · exact ⟨rfl, rfl⟩

/-! ## CENTROID -/

/-- CENTROID's declared reads and the disks before keypoint k stand apart from its output where the footprints that R224
states do. -/
theorem centroidJob_safe_of_apart {k : Nat}
    (hapart : Apart (statedReads s .centroid ++ centroidReads s k) (statedWrites s .centroid)) :
    (jobOf .centroid s (disksBefore s k) asked bad).Safe := by
  have hstated {a : Nat} (ha : Covers (declaredWrites s .centroid) a) : (a : Int) ∈ statedWrites s .centroid :=
    mem_statedWrites_of_output rfl (mem_outAddrs.mpr ha)
  refine centroidJob_safe (fun a hw hr => hapart a (hstated hw) ?_) fun j hj ⟨a, ha, hw⟩ => hapart a (hstated hw) ?_
  · exact List.mem_append_left _ (covers_inputSpan.mp hr)
  · exact List.mem_append_right _ (List.mem_append_right _ (List.mem_flatMap.mpr ⟨j, List.mem_range.mpr hj, ha⟩))

/-- Settles O30: the lanes before keypoint k are like any others, and its own raises KP_BOUNDS once its word is read. -/
theorem centroidStopsAtABadKeypoint : Obligations.CentroidStopsAtABadKeypoint := by
  intro s k hlegal hk hgood hbad hadm hroom hapart
  have hJ := centroidJob_safe_of_apart (asked := centroidReads s k ++ inputAddrs s.regs [k]) (bad := False) hapart
  have hinput (j : Nat) (hj : j ≤ k) (a : Int) (ha : a ∈ inputAddrs s.regs [j]) :
      a ∈ centroidReads s k ++ inputAddrs s.regs [k] := mem_centroidReads_next.mpr (.inl ⟨j, hj, ha⟩)
  have hdisk (j : Nat) (hj : j < k) (a : Int) (ha : a ∈ diskOf s j) :
      a ∈ disksBefore s k ∧ a ∈ centroidReads s k ++ inputAddrs s.regs [k] :=
    ⟨List.mem_flatMap.mpr ⟨j, List.mem_range.mpr hj, ha⟩, mem_centroidReads_next.mpr (.inr ⟨j, hj, ha⟩)⟩
  have hraises := centroid_raises (s := s) (b := []) hJ rfl rfl hk
    (fun j hj => lane_jobOf (hj.trans hk) (hinput j hj.le) (hdisk j hj) fun hnot => hnot (hgood j hj))
    (readsWord_jobOf (List.mem_range.mpr hk) (hinput k le_rfl)) hbad
  have hlen : ((centroidWords s (k / 4)).map wordBytes).length = 8 * (k / 4) := by
    rw [List.length_map, length_centroidWords]
  have htotal : 8 * (k / 4) ≤ (outputs s .centroid).length := by
    rw [length_outputs rfl, declaredOutput, groups]
    omega
  obtain ⟨c, hc, hes⟩ := hraises [] (entered .centroid s) (hlen.trans_le htotal)
    (by rw [List.nil_append, hlen]; exact clear_jobOf rfl hadm hroom) (after_entered rfl hlegal) rfl
  have hexec := exec_of_appending_err rfl rfl hlegal hJ hc hes
  rwa [List.nil_append, hlen, ← List.flatMap_def] at hexec

end Sys2Proof.Proofs
end

section
/-! The moments over the disk: the rows of the disk are those offsets of the square that its half-widths admit, so the
moments are the double sums of the rule; a half turn of the disk negates them (44_orb_centroid R220, R221, R227). -/

namespace Sys2Proof.Proofs

open Sys2Proof.Machine Sys2Proof.Safety

variable {α β : Type}

/-! ## Sums over lists -/

theorem sumOver_eq_sum (f : α → Int) (l : List α) : sumOver f l = (l.map f).sum := by
  induction l with
  | nil => rfl
  | cons a l ih => rw [sumOver, ih, List.map_cons, List.sum_cons]

theorem sumOver_map (f : β → Int) (g : α → β) (l : List α) : sumOver f (l.map g) = sumOver (fun a => f (g a)) l := by
  rw [sumOver_eq_sum, sumOver_eq_sum, List.map_map]
  rfl

theorem sumOver_congr {f g : α → Int} {l : List α} (h : ∀ a ∈ l, f a = g a) : sumOver f l = sumOver g l := by
  rw [sumOver_eq_sum, sumOver_eq_sum, List.map_congr_left h]

theorem sumOver_flatMap (f : β → Int) (g : α → List β) (l : List α) :
    sumOver f (l.flatMap g) = sumOver (fun a => sumOver f (g a)) l := by
  induction l with
  | nil => rfl
  | cons a l ih =>
    rw [sumOver, ← ih]
    simp only [sumOver_eq_sum, List.flatMap_cons, List.map_append, List.sum_append]

theorem sumOver_neg (f : α → Int) (l : List α) : sumOver (fun a => -f a) l = -sumOver f l := by
  induction l with
  | nil => rfl
  | cons a l ih => rw [sumOver, sumOver, ih, Int.neg_add]

theorem abs_sumOver_le {f : α → Int} {l : List α} {k : Int} (h : ∀ a ∈ l, |f a| ≤ k) :
    |sumOver f l| ≤ k * l.length := by
  induction l with
  | nil => simp [sumOver]
  | cons a l ih =>
    have ha := h a List.mem_cons_self
    have hl := ih fun b hb => h b (List.mem_cons_of_mem a hb)
    have hadd := abs_add_le (f a) (sumOver f l)
    rw [sumOver, List.length_cons, Nat.cast_succ, mul_add, mul_one]
    linarith

/-! ## The offsets from -u to u -/

/-- The offsets from -u to u, in order (R220). -/
def offsets (u : Nat) : List Int := (List.range (2 * u + 1)).map fun (i : Nat) => (i : Int) - u

theorem mem_offsets {u : Nat} {x : Int} : x ∈ offsets u ↔ x.natAbs ≤ u := by
  simp only [offsets, List.mem_map, List.mem_range]
  exact ⟨fun ⟨i, hi, hx⟩ => by omega, fun hx => ⟨(x + u).toNat, by omega, by omega⟩⟩

theorem nodup_offsets (u : Nat) : (offsets u).Nodup :=
  List.nodup_range.map fun i j (h : (i : Int) - u = j - u) => by omega

theorem sumOver_eq_sum_toFinset (f : Int → Int) {l : List Int} (h : l.Nodup) :
    sumOver f l = ∑ x ∈ l.toFinset, f x := by
  rw [sumOver_eq_sum, List.sum_toFinset f h]

/-- The offsets of a row are those of a wider span that the half-width admits. -/
theorem sumOver_offsets_eq_ite (f : Int → Int) {u v : Nat} (h : u ≤ v) :
    sumOver f (offsets u) = sumOver (fun x => if x.natAbs ≤ u then f x else 0) (offsets v) := by
  rw [sumOver_eq_sum_toFinset _ (nodup_offsets u), sumOver_eq_sum_toFinset _ (nodup_offsets v), ← Finset.sum_filter]
  refine Finset.sum_congr (Finset.ext fun x => ?_) fun _ _ => rfl
  simp only [Finset.mem_filter, List.mem_toFinset, mem_offsets]
  omega

/-- The offsets from -u to u are their own negatives. -/
theorem sumOver_offsets_comp_neg (f : Int → Int) (u : Nat) :
    sumOver (fun x => f (-x)) (offsets u) = sumOver f (offsets u) := by
  rw [sumOver_eq_sum_toFinset _ (nodup_offsets u), sumOver_eq_sum_toFinset _ (nodup_offsets u)]
  refine Finset.sum_equiv (Equiv.neg Int) (fun x => ?_) fun _ _ => rfl
  simp only [Equiv.neg_apply, List.mem_toFinset, mem_offsets, Int.natAbs_neg]

/-! ## The disk, row by row -/

theorem diskOffsets_eq (umax : List Nat) :
    diskOffsets umax = (offsets 15).flatMap fun dy => (offsets (umax.getD dy.natAbs 0)).map fun dx => (dx, dy) := by
  simp only [diskOffsets, diskRow, offsets, List.range_eq_range', List.flatMap_map, List.map_map]
  rfl

theorem moment_map (w : Int × Int → Int) (ds : List (Int × Int)) (pix : Int × Int → Byte) :
    moment w ds (ds.map pix) = sumOver (fun d => w d * ((pix d).toNat : Int)) ds := by
  induction ds with
  | nil => rfl
  | cons d ds ih => rw [List.map_cons, moment, sumOver, ih]

/-- No half-width of an admissible disk passes 15. -/
theorem getD_le_of_diskWf {umax : List Nat} (h : diskWf umax = true) (n : Nat) : umax.getD n 0 ≤ 15 := by
  simp only [diskWf, Bool.and_eq_true, List.all_eq_true, decide_eq_true_eq] at h
  obtain ⟨⟨_, hall⟩, _⟩ := h
  exact getD_of_forall_mem (P := (· ≤ 15)) hall (Nat.zero_le 15) n

/-- The term of a moment at an offset of the square: 0 outside the disk. -/
def diskTerm (umax : List Nat) (weight : Int → Int → Int) (pix : Int → Int → Byte) (dy dx : Int) : Int :=
  if dx.natAbs ≤ umax.getD dy.natAbs 0 then weight dx dy * ((pix dx dy).toNat : Int) else 0

theorem diskSum_eq (umax : List Nat) (weight : Int → Int → Int) (pix : Int → Int → Byte) :
    diskSum umax weight pix =
      sumOver (fun dy => sumOver (diskTerm umax weight pix dy) (offsets 15)) (offsets 15) := rfl

/-- A moment over the disk is the double sum over the square that holds it. -/
theorem moment_eq_diskSum {umax : List Nat} (h : diskWf umax = true) (weight : Int → Int → Int)
    (pix : Int → Int → Byte) :
    moment (fun d => weight d.1 d.2) (diskOffsets umax) ((diskOffsets umax).map fun d => pix d.1 d.2) =
      diskSum umax weight pix := by
  rw [moment_map, diskOffsets_eq, sumOver_flatMap, diskSum_eq]
  refine sumOver_congr fun dy _ => ?_
  rw [sumOver_map]
  exact sumOver_offsets_eq_ite (fun dx => weight dx dy * ((pix dx dy).toNat : Int)) (getD_le_of_diskWf h _)

/-! ## No wrap -/

/-- A term of a moment is at most 15 · 255 where no weight passes 15. -/
theorem abs_diskTerm_le {umax : List Nat} {weight : Int → Int → Int} {pix : Int → Int → Byte} {dx dy : Int}
    (hw : |weight dx dy| ≤ 15) : |diskTerm umax weight pix dy dx| ≤ 3825 := by
  unfold diskTerm
  split
  · have hpix : ((pix dx dy).toNat : Int) ≤ 255 := by omega
    calc |weight dx dy * ((pix dx dy).toNat : Int)| = |weight dx dy| * ((pix dx dy).toNat : Int) := by
          rw [abs_mul, Nat.abs_cast]
      _ ≤ 15 * 255 := mul_le_mul hw hpix (Int.natCast_nonneg _) (by norm_num)
      _ = 3825 := by norm_num
  · norm_num

/-- The sum stays far below 2^31: 31 rows of 31 terms. -/
theorem abs_diskSum_le {umax : List Nat} {weight : Int → Int → Int} (pix : Int → Int → Byte)
    (hw : ∀ dx ∈ offsets 15, ∀ dy ∈ offsets 15, |weight dx dy| ≤ 15) : |diskSum umax weight pix| ≤ 3825 * 31 * 31 :=
  abs_sumOver_le fun dy hdy => abs_sumOver_le fun dx hdx => abs_diskTerm_le (hw dx hdx dy hdy)

theorem abs_le_of_mem_offsets {u : Nat} {x : Int} (h : x ∈ offsets u) : |x| ≤ u := by
  have := mem_offsets.mp h
  exact abs_le.mpr ⟨by omega, by omega⟩

theorem toInt_ofInt_of_abs_le {v : Int} (h : |v| ≤ 3825 * 31 * 31) : (BitVec.ofInt 32 v).toInt = v := by
  rw [BitVec.toInt_ofInt]
  rw [abs_le] at h
  exact Int.bmod_eq_of_le (by omega) (by omega)

/-- Settles O52: each moment is its double sum, which is far too small to wrap. -/
theorem momentsAreDiskSums : Obligations.MomentsAreDiskSums := by
  intro p pix h
  have hx := moment_eq_diskSum h (fun dx _ => dx) pix
  have hy := moment_eq_diskSum h (fun _ dy => dy) pix
  constructor
  · exact (congrArg _ (congrArg _ hx)).trans
      (toInt_ofInt_of_abs_le (abs_diskSum_le pix fun dx hdx _ _ => abs_le_of_mem_offsets hdx))
  · exact (congrArg _ (congrArg _ hy)).trans
      (toInt_ofInt_of_abs_le (abs_diskSum_le pix fun _ _ dy hdy => abs_le_of_mem_offsets hdy))

/-! ## Half turns -/

/-- Over a patch that a half turn leaves the same, a weight that a half turn negates sums to its own negative. -/
theorem diskSum_eq_zero_of_symmetric (umax : List Nat) {weight : Int → Int → Int} {pix : Int → Int → Byte}
    (hpix : ∀ dx dy, pix (-dx) (-dy) = pix dx dy) (hweight : ∀ dx dy, weight (-dx) (-dy) = -weight dx dy) :
    diskSum umax weight pix = 0 := by
  have hterm (dy dx : Int) : diskTerm umax weight pix (-dy) (-dx) = -diskTerm umax weight pix dy dx := by
    simp only [diskTerm, Int.natAbs_neg, hpix, hweight, Int.neg_mul]
    split <;> rfl
  have hneg : diskSum umax weight pix = -diskSum umax weight pix := by
    calc diskSum umax weight pix
        = sumOver (fun dy => sumOver (fun dx => diskTerm umax weight pix (-dy) (-dx)) (offsets 15)) (offsets 15) := by
          simp only [sumOver_offsets_comp_neg (diskTerm umax weight pix _)]
          exact (sumOver_offsets_comp_neg (fun dy => sumOver (diskTerm umax weight pix dy) (offsets 15)) 15).symm
      _ = -diskSum umax weight pix := by simp only [hterm, sumOver_neg]; rfl
  omega

/-- Settles O53: a half turn negates both weights. -/
theorem symmetricDisksHaveNoMoment : Obligations.SymmetricDisksHaveNoMoment := by
  intro p pix h hpix
  have hx := (moment_eq_diskSum h (fun dx _ => dx) pix).trans
    (diskSum_eq_zero_of_symmetric p.diskUmax hpix fun _ _ => rfl)
  have hy := (moment_eq_diskSum h (fun _ dy => dy) pix).trans
    (diskSum_eq_zero_of_symmetric p.diskUmax hpix fun _ _ => rfl)
  exact Prod.ext (congrArg (BitVec.ofInt 32) hx) (congrArg (BitVec.ofInt 32) hy)

end Sys2Proof.Proofs
end

section
/-! Rounding to binary32 is monotone at the integers below 2^24: an operation whose exact result lies between two of
them, with 0 between, has its rounded result between them too (00_scope R11). -/

namespace Sys2Proof.Proofs

open Sys2Proof.Machine

/-! ## The number that a datum stands for -/

/-- The rational number ±m·2^e. -/
def finValue (neg : Bool) (m : Nat) (e : Int) : ℚ := (signedMant neg m : ℚ) * 2 ^ e

/-- x is finite and lies between lo and hi. -/
def Within (x : F32) (lo hi : Int) : Prop :=
  ∃ neg m e, x = .fin neg m e ∧ (lo : ℚ) ≤ finValue neg m e ∧ finValue neg m e ≤ hi

@[simp] theorem signedMant_not (neg : Bool) (m : Nat) : signedMant (!neg) m = -signedMant neg m := by
  cases neg <;> simp [signedMant]

theorem finValue_false (m : Nat) (e : Int) : finValue false m e = m * 2 ^ e := by simp [finValue, signedMant]

theorem finValue_true (m : Nat) (e : Int) : finValue true m e = -(m * 2 ^ e) := by simp [finValue, signedMant]

theorem finValue_not (neg : Bool) (m : Nat) (e : Int) : finValue (!neg) m e = -finValue neg m e := by
  rw [finValue, signedMant_not, Int.cast_neg, neg_mul, finValue]

/-- The product of two finite numbers, before it is rounded. -/
theorem finValue_mul (s t : Bool) (m n : Nat) (e f : Int) :
    finValue (s != t) (m * n) (e + f) = finValue s m e * finValue t n f := by
  rw [finValue, zpow_add₀ two_ne_zero]
  cases s <;> cases t <;> simp [finValue, signedMant] <;> ring

/-- The sum of two finite numbers, before it is rounded. -/
theorem exactSum_value (s t : Bool) (m n : Nat) (e f : Int) :
    ((exactSum s m e t n f).1 : ℚ) * 2 ^ (exactSum s m e t n f).2 = finValue s m e + finValue t n f := by
  have shift {a b : Int} (h : b ≤ a) : (2 : ℚ) ^ (a - b).toNat * 2 ^ b = 2 ^ a := by
    rw [← zpow_natCast, ← zpow_add₀ two_ne_zero]
    congr 1
    omega
  simp only [exactSum, finValue]
  push_cast
  rw [add_mul, mul_assoc, mul_assoc, shift (min_le_left e f), shift (min_le_right e f)]

theorem finValue_natAbs (r e : Int) : finValue (decide (r < 0)) r.natAbs e = (r : ℚ) * 2 ^ e := by
  have h : signedMant (decide (r < 0)) r.natAbs = r := by
    simp only [signedMant, decide_eq_true_eq, Int.ofNat_eq_natCast]
    split <;> omega
  rw [finValue, h]

/-! ## Rounding -/

theorem roundShift_le {m k bound : Nat} {sticky : Bool} (h : m ≤ bound * 2 ^ k)
    (hsticky : sticky = true → m < bound * 2 ^ k) : roundShift m k sticky ≤ bound := by
  rcases Nat.lt_or_eq_of_le h with hlt | rfl
  · have hq : m / 2 ^ k < bound := Nat.div_lt_of_lt_mul (by rwa [Nat.mul_comm])
    simp only [roundShift]
    split_ifs <;> omega
  · obtain rfl : sticky = false := Bool.eq_false_iff.mpr fun hs => absurd (hsticky hs) (lt_irrefl _)
    exact (roundShift_mul_pow bound k).le

theorem mul_zpow_neg_le_iff {m k bound : Nat} : (m : ℚ) * 2 ^ (-(k : Int)) ≤ bound ↔ m ≤ bound * 2 ^ k := by
  rw [zpow_neg, zpow_natCast, ← div_eq_mul_inv, div_le_iff₀ (by positivity)]
  exact_mod_cast Iff.rfl

theorem mul_zpow_neg_lt_iff {m k bound : Nat} : (m : ℚ) * 2 ^ (-(k : Int)) < bound ↔ m < bound * 2 ^ k := by
  rw [zpow_neg, zpow_natCast, ← div_eq_mul_inv, div_lt_iff₀ (by positivity)]
  exact_mod_cast Iff.rfl

/-- A number below 2^24 has its leading bit below 2^24. -/
theorem log2_add_lt {m bound : Nat} {e : Int} (hm : m ≠ 0) (h : (m : ℚ) * 2 ^ e ≤ bound) (hbound : bound < 2 ^ 24) :
    (Nat.log2 m : Int) + e < 24 := by
  have hlead : (2 : ℚ) ^ ((Nat.log2 m : Int) + e) < 2 ^ (24 : Int) := by
    calc (2 : ℚ) ^ ((Nat.log2 m : Int) + e) = ((2 ^ Nat.log2 m : Nat) : ℚ) * 2 ^ e := by
          rw [zpow_add₀ two_ne_zero, zpow_natCast, Nat.cast_pow, Nat.cast_ofNat]
      _ ≤ m * 2 ^ e := by gcongr; exact Nat.log2_self_le hm
      _ ≤ bound := h
      _ < 2 ^ (24 : Int) := by exact_mod_cast hbound
  exact (zpow_lt_zpow_iff_right₀ one_lt_two).mp hlead

/-- What does not exceed an integer below 2^24 does not exceed it after rounding: where bits are cut off, the integer is
a multiple of the place that the rounding keeps. -/
theorem roundF32_le {neg sticky : Bool} {m bound : Nat} {e : Int} (h : (m : ℚ) * 2 ^ e ≤ bound)
    (hsticky : sticky = true → (m : ℚ) * 2 ^ e < bound) (hbound : bound < 2 ^ 24) :
    ∃ n x, roundF32 neg m e sticky = .fin neg n x ∧ (n : ℚ) * 2 ^ x ≤ bound := by
  by_cases hm : m = 0
  · exact ⟨0, -149, by rw [roundF32, if_pos hm, F32.zero], by simp⟩
  have hlog := log2_add_lt hm h hbound
  rw [roundF32, if_neg hm]
  simp only [Int.ofNat_eq_natCast]
  generalize hx : max (e + (Nat.log2 m : Int) - 23) (-149) = x
  split
  next hle =>
    refine ⟨_, _, rfl, le_of_eq_of_le ?_ h⟩
    rw [Nat.cast_mul, Nat.cast_pow, Nat.cast_ofNat, mul_assoc, ← zpow_natCast, ← zpow_add₀ two_ne_zero]
    congr 2
    omega
  next hlt =>
    obtain ⟨d, rfl⟩ : ∃ d : Nat, x = -d := ⟨(-x).toNat, by omega⟩
    obtain ⟨k, rfl⟩ : ∃ k : Nat, e = -((d + k : Nat) : Int) := ⟨(-d - e).toNat, by omega⟩
    rw [mul_zpow_neg_le_iff, pow_add, ← mul_assoc] at h
    rw [mul_zpow_neg_lt_iff, pow_add, ← mul_assoc] at hsticky
    have hq : roundShift m k sticky ≤ bound * 2 ^ d := roundShift_le h hsticky
    rw [show (-(d : Int) - -((d + k : Nat) : Int)).toNat = k by omega]
    split
    next hcarry =>
      refine ⟨8388608, -d + 1, if_neg (by omega), ?_⟩
      rw [hcarry, ← mul_zpow_neg_le_iff] at hq
      rw [zpow_add₀ two_ne_zero]
      push_cast at hq ⊢
      linarith
    next => exact ⟨_, _, if_neg (by omega), mul_zpow_neg_le_iff.mpr hq⟩

/-- A range of integers that holds 0, with both ends exact in binary32. -/
def IsRange (lo hi : Int) : Prop := lo ≤ 0 ∧ 0 ≤ hi ∧ -2 ^ 24 < lo ∧ hi < 2 ^ 24

/-- Rounding, with the sign. -/
theorem within_roundF32 {neg : Bool} {m : Nat} {e lo hi : Int} (h : IsRange lo hi)
    (hlo : (lo : ℚ) ≤ finValue neg m e) (hhi : finValue neg m e ≤ hi) : Within (roundF32 neg m e false) lo hi := by
  obtain ⟨hlo0, hhi0, hlo', hhi'⟩ := h
  obtain ⟨a, rfl⟩ : ∃ a : Nat, lo = -a := ⟨(-lo).toNat, by omega⟩
  obtain ⟨b, rfl⟩ := Int.eq_ofNat_of_zero_le hhi0
  have ha : (0 : ℚ) ≤ a := a.cast_nonneg
  have hb : (0 : ℚ) ≤ b := b.cast_nonneg
  have hpos (n : Nat) (x : Int) : (0 : ℚ) ≤ n * 2 ^ x := by positivity
  rw [Int.cast_neg, Int.cast_natCast] at hlo
  rw [Int.cast_natCast] at hhi
  cases neg with
  | false =>
    rw [finValue_false] at hhi
    obtain ⟨n, x, hround, hn⟩ := roundF32_le (neg := false) (sticky := false) hhi nofun (by omega)
    refine ⟨_, n, x, hround, ?_⟩
    rw [finValue_false, Int.cast_neg, Int.cast_natCast, Int.cast_natCast]
    exact ⟨(neg_nonpos.mpr ha).trans (hpos n x), hn⟩
  | true =>
    rw [finValue_true, neg_le_neg_iff] at hlo
    obtain ⟨n, x, hround, hn⟩ := roundF32_le (neg := true) (sticky := false) hlo nofun (by omega)
    refine ⟨_, n, x, hround, ?_⟩
    rw [finValue_true, Int.cast_neg, Int.cast_natCast, Int.cast_natCast]
    exact ⟨neg_le_neg hn, (neg_nonpos.mpr (hpos n x)).trans hb⟩

/-! ## The operations -/

section Ranges

variable {x y : F32} {a b c d : Int}

theorem Within.mul (hx : Within x a b) (hy : Within y 0 c) (hab : a ≤ 0 ∧ 0 ≤ b) (h : IsRange (a * c) (b * c)) :
    Within (F32.mul x y) (a * c) (b * c) := by
  obtain ⟨s, m, e, rfl, ha, hb⟩ := hx
  obtain ⟨t, n, f, rfl, h0, hc⟩ := hy
  have ha0 : (a : ℚ) ≤ 0 := Int.cast_nonpos.mpr hab.1
  have hb0 : (0 : ℚ) ≤ b := Int.cast_nonneg hab.2
  rw [Int.cast_zero] at h0
  refine within_roundF32 h ?_ ?_ <;> rw [finValue_mul, Int.cast_mul]
  · calc (a : ℚ) * c ≤ a * finValue t n f := mul_le_mul_of_nonpos_left hc ha0
      _ ≤ finValue s m e * finValue t n f := mul_le_mul_of_nonneg_right ha h0
  · exact mul_le_mul hb hc h0 hb0

theorem Within.add (hx : Within x a b) (hy : Within y c d) (h : IsRange (a + c) (b + d)) :
    Within (F32.add x y) (a + c) (b + d) := by
  obtain ⟨s, m, e, rfl, ha, hb⟩ := hx
  obtain ⟨t, n, f, rfl, hc, hd⟩ := hy
  simp only [F32.add]
  split
  next =>
    obtain ⟨hlo, hhi, _⟩ := h
    refine ⟨_, 0, -149, rfl, ?_⟩
    rw [show finValue _ 0 (-149) = 0 by simp [finValue, signedMant]]
    exact_mod_cast And.intro hlo hhi
  next =>
    refine within_roundF32 h ?_ ?_ <;> rw [finValue_natAbs, exactSum_value, Int.cast_add]
    · exact add_le_add ha hc
    · exact add_le_add hb hd

theorem Within.neg (hx : Within x a b) : Within x.neg (-b) (-a) := by
  obtain ⟨s, m, e, rfl, ha, hb⟩ := hx
  refine ⟨!s, m, e, rfl, ?_⟩
  rw [finValue_not, Int.cast_neg, Int.cast_neg]
  exact ⟨neg_le_neg hb, neg_le_neg ha⟩

theorem Within.sub (hx : Within x a b) (hy : Within y c d) (h : IsRange (a - d) (b - c)) :
    Within (F32.sub x y) (a - d) (b - c) :=
  hx.add hy.neg h

end Ranges

theorem lt_fin_iff (m n : Nat) (e f : Int) :
    F32.lt (.fin false m e) (.fin false n f) = true ↔ (m : ℚ) * 2 ^ e < n * 2 ^ f := by
  have hvalue := exactSum_value false true m n e f
  have hpos : (0 : ℚ) < 2 ^ (exactSum false m e true n f).2 := by positivity
  rw [finValue_false, finValue_true] at hvalue
  rw [F32.lt, decide_eq_true_iff, Bool.not_false, ← Int.cast_lt (R := ℚ), Int.cast_zero,
    ← mul_lt_mul_iff_of_pos_right hpos, zero_mul, hvalue]
  constructor <;> intro h <;> linarith

/-- A quotient of nonnegative numbers, the dividend the lesser one, lies between 0 and 1. -/
theorem within_div {m n : Nat} {e f : Int} (hn : n ≠ 0) (h : (m : ℚ) * 2 ^ e ≤ n * 2 ^ f) :
    Within (F32.div (.fin false m e) (.fin false n f)) 0 1 := by
  have hn' : (0 : ℚ) < n := Nat.cast_pos.mpr (Nat.pos_of_ne_zero hn)
  have hpos : (0 : ℚ) < 2 ^ (e - f - 60) := by positivity
  have hratio : ((m * 2 ^ 60 : Nat) : ℚ) / n * 2 ^ (e - f - 60) ≤ (1 : Nat) := by
    calc ((m * 2 ^ 60 : Nat) : ℚ) / n * 2 ^ (e - f - 60) = m * 2 ^ e / (n * 2 ^ f) := by
          rw [zpow_sub₀ two_ne_zero, zpow_sub₀ two_ne_zero]
          push_cast
          field_simp
      _ ≤ (1 : Nat) := by rw [Nat.cast_one]; exact div_le_one_of_le₀ h (by positivity)
  have hdiv : ((m * 2 ^ 60 / n : Nat) : ℚ) * 2 ^ (e - f - 60) ≤ (1 : Nat) :=
    (mul_le_mul_of_nonneg_right Nat.cast_div_le hpos.le).trans hratio
  have hcut (hs : decide (m * 2 ^ 60 % n ≠ 0) = true) :
      ((m * 2 ^ 60 / n : Nat) : ℚ) * 2 ^ (e - f - 60) < (1 : Nat) := by
    refine (mul_lt_mul_of_pos_right ((lt_div_iff₀ hn').mpr ?_) hpos).trans_le hratio
    have hmod := Nat.div_add_mod' (m * 2 ^ 60) n
    exact_mod_cast (show m * 2 ^ 60 / n * n < m * 2 ^ 60 by have := of_decide_eq_true hs; omega)
  obtain ⟨k, x, hround, hk⟩ := roundF32_le (neg := false) hdiv hcut (by norm_num)
  rw [F32.div, if_neg hn, bne_self_eq_false, hround]
  refine ⟨_, k, x, rfl, ?_⟩
  rw [finValue_false, Int.cast_zero, Int.cast_one]
  exact ⟨by positivity, hk.trans_eq Nat.cast_one⟩

/-! ## Truncation -/

/-- Truncation keeps the sign and does not raise the magnitude. -/
theorem truncInt_fin (neg : Bool) (m : Nat) (e : Int) :
    ∃ q : Nat, (F32.fin neg m e).truncInt = signedMant neg q ∧ (q : ℚ) ≤ m * 2 ^ e := by
  refine ⟨_, rfl, ?_⟩
  split
  next he =>
    obtain ⟨k, rfl⟩ := Int.eq_ofNat_of_zero_le he
    simp
  next he =>
    obtain ⟨k, rfl⟩ : ∃ k : Nat, e = -k := ⟨(-e).toNat, by omega⟩
    rw [neg_neg, Int.toNat_natCast, zpow_neg, zpow_natCast, ← div_eq_mul_inv]
    exact_mod_cast Nat.cast_div_le

theorem truncInt_mem {x : F32} {hi : Int} (h : Within x 0 hi) : 0 ≤ x.truncInt ∧ x.truncInt ≤ hi := by
  obtain ⟨neg, m, e, rfl, hlo, hhi⟩ := h
  obtain ⟨q, htrunc, hq⟩ := truncInt_fin neg m e
  have hq0 : (0 : ℚ) ≤ q := q.cast_nonneg
  have hvalue : (0 : ℚ) ≤ signedMant neg q ∧ (signedMant neg q : ℚ) ≤ hi := by
    cases neg with
    | false =>
      rw [finValue_false] at hhi
      simp only [signedMant, Bool.false_eq_true, if_false, Int.ofNat_eq_natCast, Int.cast_natCast]
      exact ⟨hq0, hq.trans hhi⟩
    | true =>
      rw [finValue_true, Int.cast_zero] at hlo
      rw [finValue_true] at hhi
      simp only [signedMant, if_true, Int.ofNat_eq_natCast, Int.cast_neg, Int.cast_natCast]
      constructor <;> linarith
  rw [htrunc]
  exact_mod_cast hvalue

end Sys2Proof.Proofs
end

section
/-! The angle quantiser: for a ratio between 0 and 1 every intermediate of the polynomial keeps its sign and its size, so
no angle is negative; the ratios 0 and 1 give the bins on the axes and the diagonals (45_orb_atan2 R236, R238, R240,
R242). -/

namespace Sys2Proof.Proofs

open Sys2Proof.Machine

/-! ## The polynomial -/

theorem atan2C0_within : Within (F32.ofBits Config.atan2C0) 0 3840 := by
  refine ⟨false, 15728638, -12, by decide, ?_⟩
  norm_num [finValue_false]

theorem atan2C1_within : Within (F32.ofBits Config.atan2C1) 0 1210 := by
  refine ⟨false, 9905763, -13, by decide, ?_⟩
  norm_num [finValue_false]

theorem atan2C2_within : Within (F32.ofBits Config.atan2C2) 0 325 := by
  refine ⟨false, 10621991, -15, by decide, ?_⟩
  norm_num [finValue_false]

theorem one_eq_fin : F32.one = .fin false 8388608 (-23) := by decide

theorem one_within : Within F32.one 1 1 := by
  refine ⟨false, 8388608, -23, one_eq_fin, ?_⟩
  norm_num [finValue_false]

/-- The ranges of R236's intermediates, in its order of operations. They are loose: an angle of up to 7680 would do. -/
theorem atanPoly_within {z : F32} (hz : Within z 0 1) : Within (atanPoly z) 0 5375 := by
  have t1 : Within (F32.mul (F32.ofBits Config.atan2C2) z) 0 325 :=
    atan2C2_within.mul hz (by norm_num) (by norm_num [IsRange])
  have t2 : Within (F32.add (F32.ofBits Config.atan2C1) _) 0 1535 := atan2C1_within.add t1 (by norm_num [IsRange])
  have t3 : Within (F32.sub z F32.one) (-1) 0 := hz.sub one_within (by norm_num [IsRange])
  have t4 : Within (F32.mul _ _) (-1535) 0 := t3.mul t2 (by norm_num) (by norm_num [IsRange])
  have t5 : Within (F32.sub (F32.ofBits Config.atan2C0) _) 0 5375 := atan2C0_within.sub t4 (by norm_num [IsRange])
  exact hz.mul t5 (by norm_num) (by norm_num [IsRange])

/-! ## The magnitudes and their ratio -/

theorem ofInt_zero : F32.ofInt (0 : Nat) = F32.zero false := by decide

/-- The magnitude of a component, rounded to binary32, is finite, not negative, and 0 only where the component is. -/
theorem ofInt_eq_fin {m : Nat} (hm : m ≤ 2 ^ 31) : ∃ n e, F32.ofInt m = .fin false n e ∧ (n = 0 ↔ m = 0) := by
  rcases Nat.eq_zero_or_pos m with rfl | hpos
  · exact ⟨0, -149, ofInt_zero, by simp⟩
  have h : m ≠ 0 := hpos.ne'
  obtain ⟨hlo, _⟩ := significand_bounds h
  rcases Nat.lt_or_eq_of_le hm with hlt | rfl
  · have hl : Nat.log2 m < 31 := (Nat.log2_lt h).mpr hlt
    rcases Nat.lt_or_ge 23 (Nat.log2 m) with hlong | hshort
    · rw [ofInt_of_lt_log2 hlong hl]
      split <;> exact ⟨_, _, rfl, by omega⟩
    · exact ⟨_, _, ofInt_of_log2_le h hshort, by omega⟩
  · exact ⟨8388608, 8, by decide, by decide⟩

/-- The lesser magnitude is divided by the greater one. -/
theorem ratio_within {m n : Nat} (e f : Int) (h : ¬(m = 0 ∧ n = 0)) :
    Within (if F32.lt (.fin false m e) (.fin false n f) then F32.div (.fin false m e) (.fin false n f)
      else F32.div (.fin false n f) (.fin false m e)) 0 1 := by
  have hne {a b : Nat} {c d : Int} (hab : ¬(a = 0 ∧ b = 0)) (hle : (b : ℚ) * 2 ^ d ≤ a * 2 ^ c) : a ≠ 0 := by
    rintro rfl
    have hb : (0 : ℚ) < b := Nat.cast_pos.mpr (by omega)
    have : (0 : ℚ) < b * 2 ^ d := by positivity
    rw [Nat.cast_zero, zero_mul] at hle
    linarith
  split
  next hlt =>
    have hle := ((lt_fin_iff m n e f).mp hlt).le
    exact within_div (hne (by omega) hle) hle
  next hge =>
    have hle := not_lt.mp ((lt_fin_iff m n e f).not.mp hge)
    exact within_div (hne h hle) hle

section Quadrants

variable {mx my : Int} (t : Int)

theorem quadrantAngle_first (hx : 0 ≤ mx) (hy : 0 ≤ my) : quadrantAngle mx my t = t := by
  rw [quadrantAngle, if_pos hx, if_pos hy]

theorem quadrantAngle_second (hx : mx < 0) (hy : 0 ≤ my) : quadrantAngle mx my t = 15360 - t := by
  rw [quadrantAngle, if_neg hx.not_ge, if_pos hy]

theorem quadrantAngle_third (hx : mx < 0) (hy : my < 0) : quadrantAngle mx my t = 15360 + t := by
  rw [quadrantAngle, if_neg hx.not_ge, if_neg hy.not_ge]

theorem quadrantAngle_fourth (hx : 0 ≤ mx) (hy : my < 0) : quadrantAngle mx my t = 30720 - t := by
  rw [quadrantAngle, if_pos hx, if_neg hy.not_ge]

end Quadrants

theorem quadrantAngle_nonneg {t : Int} (mx my : Int) (h0 : 0 ≤ t) (h1 : t ≤ 7680) : 0 ≤ quadrantAngle mx my t := by
  unfold quadrantAngle
  split_ifs <;> omega

theorem angleOf_nonneg {mx my : Int} (hx : mx.natAbs ≤ 2 ^ 31) (hy : my.natAbs ≤ 2 ^ 31)
    (h : ¬(mx = 0 ∧ my = 0)) : 0 ≤ angleOf mx my := by
  obtain ⟨m, e, hax, hm⟩ := ofInt_eq_fin hx
  obtain ⟨n, f, hay, hn⟩ := ofInt_eq_fin hy
  rw [Int.natAbs_eq_zero] at hm hn
  have hratio := ratio_within e f (m := m) (n := n) (by rwa [hm, hn])
  obtain ⟨hlo, hhi⟩ := truncInt_mem (atanPoly_within hratio)
  simp only [angleOf, hax, hay]
  generalize (atanPoly _).truncInt = ai at hlo hhi ⊢
  exact quadrantAngle_nonneg mx my (by split <;> omega) (by split <;> omega)

/-! ## Bins -/

theorem angleBin_zero : angleBin 0 0 = 0 := by decide

/-- The bin of the angle θ, in units of 1/256 of 3°; a full turn has no bin of its own (R238). -/
def binOfAngle (θ : Int) : Byte := if θ / 1024 < 30 then BitVec.ofInt 8 (θ / 1024) else 0

theorem toNat_binOfAngle_lt {θ : Int} (h : 0 ≤ θ) : (binOfAngle θ).toNat < 30 := by
  unfold binOfAngle
  split
  next =>
    rw [BitVec.toNat_ofInt]
    omega
  next => decide

theorem angleBin_eq {mx my : Int} (hx : mx.natAbs ≤ 2 ^ 31) (hy : my.natAbs ≤ 2 ^ 31) (h : ¬(mx = 0 ∧ my = 0)) :
    angleBin mx my = binOfAngle (angleOf mx my) := by
  obtain ⟨m, e, hax, hm⟩ := ofInt_eq_fin hx
  obtain ⟨n, f, hay, hn⟩ := ofInt_eq_fin hy
  rw [Int.natAbs_eq_zero] at hm hn
  have hnot : ((F32.fin false m e).isZero && (F32.fin false n f).isZero) = false := by
    simp only [F32.isZero, hm, hn]
    simpa using h
  simp only [angleBin, binOfAngle, hax, hay, hnot, Bool.false_eq_true, if_false]

/-- Settles O55: no angle is negative, and a bin of 30 or more becomes 0. -/
theorem binsAreBelowThirty : Obligations.BinsAreBelowThirty := by
  intro mx my
  have hx : mx.toInt.natAbs ≤ 2 ^ 31 := by have := mx.toInt_lt; have := mx.le_toInt; omega
  have hy : my.toInt.natAbs ≤ 2 ^ 31 := by have := my.toInt_lt; have := my.le_toInt; omega
  by_cases h : mx.toInt = 0 ∧ my.toInt = 0
  · obtain ⟨hmx, hmy⟩ := h
    rw [hmx, hmy, angleBin_zero]
    decide
  · rw [angleBin_eq hx hy h]
    exact toNat_binOfAngle_lt (angleOf_nonneg hx hy h)

/-! ## The axes and the diagonals -/

theorem div_zero_fin {n : Nat} (f : Int) (hn : n ≠ 0) : F32.div (F32.zero false) (.fin false n f) = F32.zero false := by
  simp [F32.zero, F32.div, hn, roundF32]

theorem div_self_fin {n : Nat} (f : Int) (hn : n ≠ 0) : F32.div (.fin false n f) (.fin false n f) = F32.one := by
  have hpos : 0 < n := Nat.pos_of_ne_zero hn
  rw [F32.div, if_neg hn, Nat.mul_div_cancel_left _ hpos, Nat.mul_mod_right, bne_self_eq_false, sub_self]
  decide

theorem truncInt_atanPoly_zero : (atanPoly (F32.zero false)).truncInt = 0 := by decide

theorem truncInt_atanPoly_one : (atanPoly F32.one).truncInt = 3839 := by decide

theorem angleBin_horizontal {mx : Int} (hx : mx.natAbs ≤ 2 ^ 31) (h : mx ≠ 0) :
    angleBin mx 0 = binOfAngle (quadrantAngle mx 0 0) := by
  obtain ⟨m, e, hax, hm⟩ := ofInt_eq_fin hx
  have hm0 : m ≠ 0 := by rwa [Ne, hm, Int.natAbs_eq_zero]
  have hlt : ¬F32.lt (.fin false m e) (F32.zero false) = true := by
    rw [F32.zero, lt_fin_iff]
    have : (0 : ℚ) ≤ m * 2 ^ e := by positivity
    simpa using this
  rw [angleBin_eq hx (by decide) fun ⟨hmx, _⟩ => h hmx]
  simp only [angleOf, Int.natAbs_zero, ofInt_zero, hax, if_neg hlt, div_zero_fin e hm0, truncInt_atanPoly_zero]

theorem angleBin_vertical {my : Int} (hy : my.natAbs ≤ 2 ^ 31) (h : my ≠ 0) :
    angleBin 0 my = binOfAngle (quadrantAngle 0 my 7680) := by
  obtain ⟨n, f, hay, hn⟩ := ofInt_eq_fin hy
  have hn0 : n ≠ 0 := by rwa [Ne, hn, Int.natAbs_eq_zero]
  have hlt : F32.lt (F32.zero false) (.fin false n f) = true := by
    have : (0 : ℚ) < n := Nat.cast_pos.mpr (Nat.pos_of_ne_zero hn0)
    rw [F32.zero, lt_fin_iff, Nat.cast_zero, zero_mul]
    positivity
  rw [angleBin_eq (by decide) hy fun ⟨_, hmy⟩ => h hmy]
  simp only [angleOf, Int.natAbs_zero, ofInt_zero, hay, if_pos hlt, div_zero_fin f hn0, truncInt_atanPoly_zero, sub_zero]

theorem angleBin_diagonal {mx my : Int} (hx : mx.natAbs ≤ 2 ^ 31) (h : mx ≠ 0) (heq : my.natAbs = mx.natAbs) :
    angleBin mx my = binOfAngle (quadrantAngle mx my 3839) := by
  obtain ⟨m, e, hax, hm⟩ := ofInt_eq_fin hx
  have hm0 : m ≠ 0 := by rwa [Ne, hm, Int.natAbs_eq_zero]
  have hlt : ¬F32.lt (.fin false m e) (.fin false m e) = true := (lt_fin_iff m m e e).not.mpr (lt_irrefl _)
  rw [angleBin_eq hx (heq.trans_le hx) fun ⟨hmx, _⟩ => h hmx]
  simp only [angleOf, heq, hax, if_neg hlt, div_self_fin e hm0, truncInt_atanPoly_one]

/-- Settles O54: on an axis the ratio is 0, on a diagonal it is 1, so the angle depends on the signs alone. -/
theorem axisAndDiagonalBins : Obligations.AxisAndDiagonalBins := by
  refine ⟨angleBin_zero, fun m hpos hlt => ?_⟩
  have hm : m.natAbs ≤ 2 ^ 31 := by omega
  have hn : (-m).natAbs ≤ 2 ^ 31 := by omega
  have hm0 : m ≠ 0 := by omega
  have hn0 : -m ≠ 0 := by omega
  have hp : 0 ≤ m := hpos.le
  have hneg : -m < 0 := by omega
  refine ⟨?_, ?_, ?_, ?_, ?_, ?_, ?_, ?_⟩
  · rw [angleBin_horizontal hm hm0, quadrantAngle_first _ hp le_rfl]; decide
  · rw [angleBin_vertical hm hm0, quadrantAngle_first _ le_rfl hp]; decide
  · rw [angleBin_horizontal hn hn0, quadrantAngle_second _ hneg le_rfl]; decide
  · rw [angleBin_vertical hn hn0, quadrantAngle_fourth _ le_rfl hneg]; decide
  · rw [angleBin_diagonal hm hm0 rfl, quadrantAngle_first _ hp hp]; decide
  · rw [angleBin_diagonal hn hn0 m.natAbs_neg.symm, quadrantAngle_second _ hneg hp]; decide
  · rw [angleBin_diagonal hn hn0 rfl, quadrantAngle_third _ hneg hneg]; decide
  · rw [angleBin_diagonal hm hm0 m.natAbs_neg, quadrantAngle_fourth _ hp hneg]; decide

end Sys2Proof.Proofs
end

section
/-! DESCRIBE at the first keypoint without its margin, or with an orientation field of 30 or more (46_orb_describe R253,
R256, R257, 60_exceptions R274). -/

namespace Sys2Proof.Proofs

open Sys2Proof.Machine Sys2Proof.Safety

variable {J : Job} {b : List Bucket} {k : Nat} {e : ErrCode} {info : Word}

/-! ## The keypoint that stops the command -/

/-- A keypoint that has its margin is read like any input word. -/
theorem boundedKeypoint_emits (hJ : J.Safe) (hk : J.ReadsWord k) (hmargin : InMargin J.start k) :
    Emits J (boundedKeypoint J.start.regs k) b b (inputAddrs J.start.regs [k]) (inputWord J.start k) [] := by
  refine ((hk.emits hJ).after (rd' := []) fun _ => ?_).cast (fun _ ha => List.mem_append_left _ ha) rfl rfl
  rw [if_pos ((inMargin_iff J.start k).mpr hmargin)]
  exact .pure

theorem describeKeypoint_raises_kpBounds (hJ : J.Safe) (hk : J.ReadsWord k) (hmargin : ¬ InMargin J.start k) :
    Raises J (describeKeypoint J.start.params J.start.regs k) b [] .kpBounds (BitVec.ofNat 32 k) :=
  (boundedKeypoint_raises hJ hk hmargin).bind

/-- The margin is checked first, then the orientation field. -/
theorem describeKeypoint_raises_badBin (hJ : J.Safe) (hk : J.ReadsWord k) (hmargin : InMargin J.start k)
    (hbin : 30 ≤ (kpOrient (inputWord J.start k)).toNat) :
    Raises J (describeKeypoint J.start.params J.start.regs k) b [] .badBin (BitVec.ofNat 32 k) := by
  refine (boundedKeypoint_emits hJ hk hmargin).thenRaises ?_
  rw [if_pos hbin]
  exact .raise

/-! ## The keypoints before it -/

/-- The first `n` keypoints. -/
theorem Emits.describeKeypoints (hJ : J.Safe) (he : J.esize = 4) {n : Nat} (hk : ∀ k, k < n → J.Described k) :
    Emits J (Cmd.forRange 0 n (Machine.describeKeypoint J.start.params J.start.regs)) b b
      ((List.range' 0 n).flatMap fun k => inputAddrs J.start.regs [k] ++ probesOf J.start k) ()
      ((describeWords J.start n).map wordBytes) := by
  refine (Emits.forRange fun k hmem => .describeKeypoint hJ he (hk k (by simpa using hmem))).cast
    (fun _ ha => ha) rfl ?_
  rw [describeWords, List.map_flatMap, ← List.range_eq_range']
  rfl

/-- DESCRIBE with keypoint k the first that raises: the descriptors before it, and the error. -/
theorem describe_raises {s : State} (hJ : J.Safe) (hs : J.start = s) (he : J.esize = 4)
    (hlt : k < s.regs.inCount.toNat) (hbefore : ∀ j, j < k → J.Described j)
    (hraise : Raises J (describeKeypoint s.params s.regs k) b [] e info) :
    Raises J (work .describe s) b ((describeWords s k).map wordBytes) e info := by
  subst hs
  obtain ⟨m, hm⟩ : ∃ m, J.start.regs.inCount.toNat = k + (m + 1) :=
    ⟨J.start.regs.inCount.toNat - k - 1, by omega⟩
  dsimp only [work]
  rw [hm, forRange_add, Nat.zero_add, Cmd.forRange_succ, ← List.append_nil (List.map wordBytes _)]
  exact (Emits.describeKeypoints hJ he hbefore).raises hraise.bind

/-! ## The command -/

variable {s : State} {asked : List Int} {bad : Prop}

/-- DESCRIBE declares no pixels but those that R256 counts, so its job is safe where the stated footprints are apart. -/
theorem describeJob_safe_of_apart (hapart : Apart (statedReads s .describe) (statedWrites s .describe)) :
    (jobOf .describe s [] asked bad).Safe := by
  refine jobOf_safe rfl rfl (fun a hw hr => ?_) fun _ h => by cases h
  refine hapart a (mem_statedWrites_of_output rfl (mem_outAddrs.mpr hw)) (List.mem_append.mpr ?_)
  refine (covers_describeReadSpans.mp hr).imp_right fun ⟨j, hj, ⟨_, hbin⟩, ha⟩ => ?_
  exact List.mem_flatMap.mpr ⟨j, List.mem_filter.mpr ⟨List.mem_range.mpr hj, decide_eq_true hbin⟩, ha⟩

theorem mem_describeReads_of_lt {j : Nat} (hj : j < k) {a : Int} (ha : a ∈ inputAddrs s.regs [j] ++ probesOf s j) :
    a ∈ describeReads s k := by
  rcases List.mem_append.mp ha with ha | ha
  · exact List.mem_append_left _ (mem_inputAddrs_singleton.mpr ⟨j, List.mem_range.mpr hj, ha⟩)
  · exact List.mem_append_right _ (List.mem_flatMap.mpr ⟨j, List.mem_range.mpr hj, ha⟩)

/-- The job of DESCRIBE up to keypoint k, which no input before it stops. -/
abbrev describeJob (s : State) (k : Nat) : Job :=
  jobOf .describe s [] (describeReads s k ++ inputAddrs s.regs [k]) False

/-- Whatever error keypoint k raises, DESCRIBE ends with it, and with the descriptors of the keypoints before it. -/
theorem exec_describe_of_raises (hlegal : Legal .describe s) (hk : k < s.regs.inCount.toNat)
    (hgood : ∀ j, j < k → Describable s j) (hadm : AllAdmitted s.params (describeReads s k ++ inputAddrs s.regs [k]))
    (hroom : Room s 4 (s.regs.descN.toNat * k)) (hJ : (describeJob s k).Safe)
    (hraise : Raises (describeJob s k) (describeKeypoint s.params s.regs k) [] [] e info) :
    ∃ t, exec .describe s = .next t ∧
      Appended s t 4 (s.regs.descN.toNat * k) (bytesOfWords (describeWords s k)) ∧ EndedBadly s t e info := by
  have hasked (j : Nat) (hj : j < k) (a : Int) (ha : a ∈ inputAddrs s.regs [j] ++ probesOf s j) :
      a ∈ describeReads s k ++ inputAddrs s.regs [k] := List.mem_append_left _ (mem_describeReads_of_lt hj ha)
  have hraises := describe_raises (s := s) hJ rfl rfl hk (fun j hj => described_jobOf (hj.trans hk)
    (fun a ha => hasked j hj a (List.mem_append_left _ ha)) (fun a ha => hasked j hj a (List.mem_append_right _ ha))
    fun hnot => hnot (hgood j hj)) hraise
  have hlen : ((describeWords s k).map wordBytes).length = s.regs.descN.toNat * k := by
    rw [List.length_map, length_describeWords]
  have htotal : s.regs.descN.toNat * k ≤ (outputs s .describe).length := by
    rw [length_outputs rfl]
    exact Nat.mul_le_mul_left _ hk.le
  obtain ⟨c, hc, hes⟩ := hraises [] (entered .describe s) (hlen.trans_le htotal)
    (by rw [List.nil_append, hlen]; exact clear_jobOf rfl hadm hroom) (after_entered rfl hlegal) rfl
  have hexec := exec_of_appending_err rfl rfl hlegal hJ hc hes
  rwa [List.nil_append, hlen, ← List.flatMap_def] at hexec

/-- Settles O31: the keypoints before keypoint k are like any others, and its own raises once its word is read. -/
theorem describeStopsAtABadKeypoint : Obligations.DescribeStopsAtABadKeypoint := by
  intro s k _ hlegal hk hgood hadm hroom hapart
  have hJ : (describeJob s k).Safe := describeJob_safe_of_apart hapart
  have hword : (describeJob s k).ReadsWord k :=
    readsWord_jobOf (List.mem_range.mpr hk) fun _ ha => List.mem_append_right _ ha
  exact ⟨fun hmargin => exec_describe_of_raises hlegal hk hgood hadm hroom hJ
      (describeKeypoint_raises_kpBounds hJ hword hmargin),
    fun hmargin hbin => exec_describe_of_raises hlegal hk hgood hadm hroom hJ
      (describeKeypoint_raises_badBin hJ hword hmargin hbin)⟩

end Sys2Proof.Proofs
end

section
/-! The default pattern ROM: where the rotation of a bin is a multiple of the identity, what rounding leaves, and the
range of every entry (46_orb_describe R251, R252). -/

namespace Sys2Proof.Proofs

open Sys2Proof.Machine

/-! ## The range of an entry -/

theorem clampInt_mem (v : Int) {lo hi : Int} (h : lo ≤ hi) : lo ≤ clampInt v lo hi ∧ clampInt v lo hi ≤ hi :=
  ⟨le_min (le_max_right v lo) h, min_le_right _ _⟩

theorem rotOffset_bounds (dx dy : Int) (r : Nat) :
    (-15 ≤ (rotOffset dx dy r).1 ∧ (rotOffset dx dy r).1 ≤ 15) ∧
      -15 ≤ (rotOffset dx dy r).2 ∧ (rotOffset dx dy r).2 ≤ 15 :=
  ⟨clampInt_mem _ (by decide), clampInt_mem _ (by decide)⟩

theorem probeWf_rotProbe (base : (Int × Int) × (Int × Int)) (r : Nat) : probeWf (rotProbe base r) = true := by
  obtain ⟨ha, hb⟩ := rotOffset_bounds base.1.1 base.1.2 r
  obtain ⟨hc, hd⟩ := rotOffset_bounds base.2.1 base.2.2 r
  simp only [probeWf, Bool.and_eq_true, between_iff]
  exact ⟨⟨⟨ha, hb⟩, hc⟩, hd⟩

theorem romWf_romOf (base : Nat → (Int × Int) × (Int × Int)) : romWf (romOf base) = true := by
  have hrow (row : List Probe) (hmem : row ∈ romOf base) : row.length = 256 ∧ ∀ q ∈ row, probeWf q = true := by
    obtain ⟨r, _, rfl⟩ := List.mem_map.mp hmem
    refine ⟨by rw [List.length_map, List.length_range'], fun q hq => ?_⟩
    obtain ⟨k, _, rfl⟩ := List.mem_map.mp hq
    exact probeWf_rotProbe (base k) r
  have hlen : (romOf base).length = 30 := by rw [romOf, List.length_map, List.length_range']
  simp only [romWf, Bool.and_eq_true, List.all_eq_true, decide_eq_true_eq]
  exact ⟨hlen, hrow⟩

/-! ## Bins 0 and 15 -/

theorem roundEighth_eight_mul (v : Int) : roundEighth (8 * v) = v := by
  simp [roundEighth]

/-- A coordinate without surds that is a whole number is not changed by rounding. -/
theorem roundCoord_whole (p n : Nat) (v : Int) : roundCoord p (8 * v :: List.replicate n 0) = v := by
  simp [roundCoord, roundEighth_eight_mul]

/-- Where cos θ_r is the whole number `c` and sin θ_r is 0, the rotation multiplies both coordinates by `c`. -/
theorem rotOffset_of_sin_zero {r : Nat} {c : Int} (hcos : eightCos r = 8 * c :: List.replicate 7 0)
    (hsin : eightSin r = List.replicate 8 0) (dx dy : Int) :
    rotOffset dx dy r = (clampInt (dx * c) (-15) 15, clampInt (dy * c) (-15) 15) := by
  have hx : combine dx (eightCos r) (-dy) (eightSin r) = 8 * (dx * c) :: List.replicate 7 0 := by
    rw [hcos, hsin]
    simp [combine, mul_left_comm _ (8 : Int)]
  have hy : combine dx (eightSin r) dy (eightCos r) = 8 * (dy * c) :: List.replicate 7 0 := by
    rw [hcos, hsin]
    simp [combine, mul_left_comm _ (8 : Int)]
  simp only [rotOffset, hx, hy, roundCoord_whole]

theorem rotOffset_zero (dx dy : Int) : rotOffset dx dy 0 = (clampInt dx (-15) 15, clampInt dy (-15) 15) := by
  rw [rotOffset_of_sin_zero (c := 1) (by decide) (by decide), mul_one, mul_one]

theorem rotOffset_fifteen (dx dy : Int) :
    rotOffset dx dy 15 = (clampInt (-dx) (-15) 15, clampInt (-dy) (-15) 15) := by
  rw [rotOffset_of_sin_zero (c := -1) (by decide) (by decide), mul_neg_one, mul_neg_one]

/-- Settles O56: bins 0 and 15 turn by 0° and 180°, the examples are computed, and clamping bounds every entry. -/
theorem rotatedPatternFacts : Obligations.RotatedPatternFacts := by
  refine ⟨fun base => ⟨?_, ?_⟩, ?_, ?_, ?_, ?_, ?_, romWf_romOf⟩
  · simp only [rotProbe, rotOffset_zero]
  · simp only [rotProbe, rotOffset_fifteen]
  all_goals decide

end Sys2Proof.Proofs
end

section
/-! Requests that stand for no command, and the reset input: its assertion, its release, and a reset that tears a
command (60_exceptions R271, 70_reset_and_hazards R300, R301). -/

namespace Sys2Proof.Proofs

open Sys2Proof.Machine Sys2Proof.Safety

/-! ## Words that stand for no command -/

/-- The words of the eleven commands have RSVD = 0 and OP in 0x01 .. 0x0B (30_encoding R80, R81). -/
theorem encode_range (i : Instr) :
    (encode i).toNat / 256 = 0 ∧ 1 ≤ (encode i).toNat % 256 ∧ (encode i).toNat % 256 ≤ 0x0B := by
  cases i <;> decide

/-- A word outside that range runs as BAD_OPCODE (60_exceptions R271). -/
theorem runWord_of_no_command {v : Word} (hv : v.toNat / 256 ≠ 0 ∨ v.toNat % 256 = 0 ∨ 0x0B < v.toNat % 256)
    (s : State) : runWord v s = .next (s.raise .badOpcode v) := by
  unfold runWord
  cases hdec : decode v with
  | error _ => rfl
  | ok i =>
    obtain ⟨hrsvd, hlow, hhigh⟩ := eq_encode_of_decode hdec ▸ encode_range i
    omega

/-- Settles O3: the word is accepted, and raises BAD_OPCODE on the accepted state. -/
theorem rejectedWordsRaiseBadOpcode : Obligations.RejectedWordsRaiseBadOpcode := by
  intro s v rest hready hact hv
  exact (step_request_of_ready hready hact).trans (runWord_of_no_command hv _)

/-! ## The state after reset -/

/-- Settles O13: memory lists nothing, and no grid and no index is valid. -/
theorem resetHasTheInvariants : Obligations.ResetHasTheInvariants :=
  ⟨State.reset_mem_wf, ⟨rfl, iff_of_true rfl rfl, fun h => h⟩, gridOk_of_no_grid rfl rfl rfl,
    indexOk_of_not_valid rfl⟩

/-! ## The reset input -/

theorem hostRegRead_in_reset (width : AccessWidth) (offset : BitVec 8) {s : State} (hr : s.inReset = true) :
    hostRegRead width offset s = .next (s.returnRead 0) := if_pos hr

theorem hostRegWrite_in_reset (width : AccessWidth) (offset : BitVec 8) (v : Word) {s : State}
    (hr : s.inReset = true) : hostRegWrite width offset v s = .next s := if_pos hr

theorem releaseReset_in_reset {s : State} (hr : s.inReset = true) : s.releaseReset = s.afterReset := if_pos hr

theorem word_zero : Status.zero.word = 0 := by decide

theorem get_zero (p : ParamReg) : ParamRegs.zero.get p = 0 := by cases p <;> rfl

/-- Settles O11: each act by what it does under an asserted input; the release leaves `State.afterReset`. -/
theorem resetEvent : Obligations.ResetEvent := by
  refine ⟨fun s rest hact => step_act hact, fun s rest hr => ⟨fun width offset hact => ?_,
    fun width offset v hact => ?_, fun hact => ?_⟩⟩
  · exact (step_act hact).trans (hostRegRead_in_reset width offset hr)
  · exact (step_act hact).trans (hostRegWrite_in_reset width offset v hr)
  · have hstep : step s = .next (State.afterReset { s with inputs := rest }) :=
      (step_act hact).trans (congrArg Host.Outcome.next (releaseReset_in_reset hr))
    exact ⟨_, hstep, rfl, rfl, word_zero, rfl, rfl, get_zero, rfl, rfl, rfl, rfl⟩

/-! ## Reset during a command -/

/-- A reset during a command that would have ended in `t` (70_reset_and_hazards R301). -/
theorem resetDuring_of_ready {v : Word} {s t : State} (hready : Ready s) (hrun : runWord v (s.accept v) = .next t) :
    resetDuring v s = .next (State.assertReset { s with
      cmd := v
      mem := abortedMemory (Config.abortedWriteLanded s.freeCount) s.mem t.mem
      freeCount := s.freeCount + 1 }) := by
  obtain ⟨hr, hb, he⟩ := hready
  simp [resetDuring, hr, acceptsRequest_iff.mpr ⟨hb, he⟩, hrun]

/-- Settles O12: the bytes of the aborted memory are taken from the old memory and from the command's. -/
theorem resetDuringACommandTearsItsWrites : Obligations.ResetDuringACommandTearsItsWrites := by
  intro s t v rest hready hact hrun
  exact ⟨_, (step_act hact).trans (resetDuring_of_ready (s := { s with inputs := rest }) hready hrun), rfl, rfl, rfl,
    fun a => read_landWrites _ t.mem _ s.mem a⟩

end Sys2Proof.Proofs
end

section
/-! A command that fails a check: which error it ends with, and that it does nothing else (60_exceptions R273, R277,
R288). -/

namespace Sys2Proof.Proofs

open Sys2Proof.Machine Sys2Proof.Safety

variable {i : Instr} {s : State} {info : Word}

/-- NO_GRID comes before every other check (60_exceptions R277). -/
theorem body_of_missingGrid (h : missingGrid s i = some info) : body i s s.begin = .err .noGrid info s.begin := by
  have hchecks : checks i s s.begin = .err .noGrid info s.begin := Cmd.bind_err (requires_err h)
  rw [body_eq, Cmd.bind_err hchecks]

/-- The first parameter check that fails ends the command (60_exceptions R273). -/
theorem body_of_firstFailed (hgrid : missingGrid s i = none)
    (h : firstFailed (paramChecks s.params s.regs i) = some info) :
    body i s s.begin = .err .badParam info s.begin := by
  have hchecks : checks i s s.begin = .err .badParam info s.begin :=
    (Cmd.bind_ok (requires_ok hgrid)).trans (runChecks_err h s.begin)
  rw [body_eq, Cmd.bind_err hchecks]

/-- A command that its checks end has declared no footprint, so it does not fault. -/
theorem exec_of_failed_check {e : ErrCode} (h : body i s s.begin = .err e info s.begin) :
    exec i s = .next ((refreshed i s).raise e info) := by
  rw [exec_eq]
  exact runCommand_err h fun a hw => absurd hw (covers_nil a)

/-- GRID_TOTAL is all that the end of a command sets beside STATUS and ERR_INFO (10_state R41). -/
theorem refreshed_eq (i : Instr) (u : State) :
    refreshed i u = { u with
      gridTotal :=
        if isGridCommand i then (if u.status.gridValid then BitVec.ofNat 32 (entryCount u.grid.buckets) else 0)
        else u.gridTotal } := by
  unfold refreshed
  cases isGridCommand i <;> rfl

/-- Settles O24: the checks end the command with nothing changed, and a grid command then sets GRID_TOTAL. -/
theorem failedParameterCheckRaisesBadParam : Obligations.FailedParameterCheckRaisesBadParam := by
  intro i s info hgrid hfailed
  rw [exec_of_failed_check (body_of_firstFailed hgrid hfailed), refreshed_eq]
  rfl

/-- A command that needs a valid grid (60_exceptions R277). -/
theorem missingGrid_of_not_valid (hi : i = .gridReduce ∨ i = .gridIndex ∨ i = .gridQuery)
    (hv : s.status.gridValid = false) : missingGrid s i = some 0 ∧ isGridCommand i = true := by
  rcases hi with rfl | rfl | rfl <;> simp [missingGrid, isGridCommand, hv]

/-- Settles O25: the missing grid or index ends the command, and GRID_TOTAL is set to the count. -/
theorem missingGridRaisesNoGrid : Obligations.MissingGridRaisesNoGrid := by
  refine fun s => ⟨fun i hi hv => ?_, fun hv hindex => ?_⟩
  · obtain ⟨hmissing, hgrid⟩ := missingGrid_of_not_valid hi hv
    rw [exec_of_failed_check (body_of_missingGrid hmissing), refreshed_eq, hgrid, hv]
    rfl
  · have hmissing : missingGrid s .gridQuery = some 1 := by simp [missingGrid, hv, hindex]
    rw [exec_of_failed_check (body_of_missingGrid hmissing), refreshed_eq, hv]
    rfl

end Sys2Proof.Proofs
end

section
/-! What no command can observe: every part of a command does the same on two runs that differ only in storage that no
software can see, and raises only errors of a list (60_exceptions R288, 70_reset_and_hazards R300, R321). -/

namespace Sys2Proof.Proofs

open Sys2Proof.Machine Sys2Proof.Safety

variable {α β : Type}

/-! ## States that software cannot tell apart -/

theorem alike_refl (s : State) : Alike s s := ⟨rfl, fun _ => rfl, fun _ _ _ _ => rfl⟩

/-- A state and its like, by the storage in which they may differ. -/
theorem alike_hidden {s s' : State} (h : Alike s s') :
    ∃ g l n, s' = { s with grid := g, index := l, freeCount := n } ∧ (s.status.gridValid = true → g = s.grid) ∧
      (s.status.gridValid = true → s.status.indexValid = true →
        ∀ q, q < s.grid.vb * s.grid.hb → l.getD q 0 = s.index.getD q 0) :=
  ⟨_, _, _, h⟩

theorem alike_store {s s' : State} (h : Alike s s') (a : Nat) (bs : List Byte) :
    Alike (s.store a bs) (s'.store a bs) := by
  obtain ⟨g, l, n, rfl, hgrid, hslots⟩ := alike_hidden h
  exact ⟨rfl, hgrid, hslots⟩

theorem alike_countElement {s s' : State} (h : Alike s s') : Alike s.countElement s'.countElement := by
  obtain ⟨g, l, n, rfl, hgrid, hslots⟩ := alike_hidden h
  exact ⟨rfl, hgrid, hslots⟩

theorem alike_finish {s s' : State} (h : Alike s s') : Alike s.finish s'.finish := by
  obtain ⟨g, l, n, rfl, hgrid, hslots⟩ := alike_hidden h
  exact ⟨rfl, hgrid, hslots⟩

theorem alike_raise {s s' : State} (h : Alike s s') (e : ErrCode) (info : Word) :
    Alike (s.raise e info) (s'.raise e info) := by
  obtain ⟨g, l, n, rfl, hgrid, hslots⟩ := alike_hidden h
  exact ⟨rfl, hgrid, hslots⟩

/-- A slot that is set reads the same in both, and the others as before. -/
theorem alike_setSlot {s s' : State} (h : Alike s s') (q : Nat) :
    Alike { s with index := setSlot s.regs.outCount q s.index }
      { s' with index := setSlot s'.regs.outCount q s'.index } := by
  obtain ⟨g, l, n, rfl, hgrid, hslots⟩ := alike_hidden h
  refine ⟨rfl, hgrid, fun hv hi k hk => ?_⟩
  simp only [getD_setSlot]
  split
  · rfl
  · exact hslots hv hi k hk

/-- Without a valid grid the two may hold any grids and any index tables. -/
theorem alike_of_no_grid {s s' : State}
    (h : s' = { s with grid := s'.grid, index := s'.index, freeCount := s'.freeCount })
    (hv : s.status.gridValid = false) : Alike s s' :=
  ⟨h, fun hv' => (by cases hv.symm.trans hv'), fun hv' => (by cases hv.symm.trans hv')⟩

theorem alike_loseGrid {s s' : State} (h : Alike s s') : Alike s.loseGrid s'.loseGrid := by
  obtain ⟨g, l, n, rfl, _, _⟩ := alike_hidden h
  exact alike_of_no_grid rfl rfl

theorem alike_dropIndex {s s' : State} (h : Alike s s') : Alike s.dropIndex s'.dropIndex := by
  obtain ⟨g, l, n, rfl, hgrid, _⟩ := alike_hidden h
  exact ⟨rfl, hgrid, fun _ hi => by cases hi⟩

/-- A grid installed in both is valid in both, and no index is valid after the old grid was lost. -/
theorem alike_installGrid {s s' : State} (h : Alike s s') (hi : s.status.indexValid = false) (g : Grid) :
    Alike (s.installGrid g) (s'.installGrid g) := by
  obtain ⟨_, l, n, rfl, _, _⟩ := alike_hidden h
  exact ⟨rfl, fun _ => rfl, fun _ hi' => by cases hi.symm.trans hi'⟩

/-- GRID_REDUCE reads the grid only where it is valid. -/
theorem alike_reduce {s s' : State} (h : Alike s s') (hv : s.status.gridValid = true) : Alike s.reduce s'.reduce := by
  obtain ⟨g, l, n, rfl, hgrid, _⟩ := alike_hidden h
  obtain rfl := hgrid hv
  exact ⟨rfl, fun _ => rfl, fun _ hi => by cases hi⟩

/-- An index may become valid where every slot of a bucket reads the same. -/
theorem alike_validateIndex {s s' : State} (h : Alike s s')
    (hslots : ∀ q, q < s.grid.vb * s.grid.hb → s'.index.getD q 0 = s.index.getD q 0) :
    Alike s.validateIndex s'.validateIndex := by
  obtain ⟨g, l, n, rfl, hgrid, _⟩ := alike_hidden h
  exact ⟨rfl, hgrid, fun _ _ => hslots⟩

/-- GRID_TOTAL counts the grid only where it is valid (10_state R41). -/
theorem alike_refreshed {s s' : State} (h : Alike s s') (i : Instr) :
    Alike (refreshed i s) (refreshed i s') := by
  obtain ⟨g, l, n, rfl, hgrid, hslots⟩ := alike_hidden h
  rw [refreshed_eq, refreshed_eq]
  cases hv : s.status.gridValid with
  | false => exact alike_of_no_grid rfl hv
  | true =>
    obtain rfl := hgrid hv
    exact ⟨rfl, hgrid, hslots⟩

/-! ## The judgement -/

/-- Two runs whose states software cannot tell apart. -/
structure AlikeRun (c c' : Run) : Prop where
  st : Alike c.st c'.st
  reads : c'.reads = c.reads
  writes : c'.writes = c.writes
  buckets : c'.buckets = c.buckets

/-- Two results that software cannot tell apart, an error being one of `es`. -/
inductive AlikeResult (es : List ErrCode) : CmdResult α → CmdResult α → Prop
  | ok {a : α} {c c' : Run} (h : AlikeRun c c') : AlikeResult es (.ok a c) (.ok a c')
  | err {e : ErrCode} {info : Word} {c c' : Run} (he : e ∈ es) (h : AlikeRun c c') :
      AlikeResult es (.err e info c) (.err e info c')

/-- A part of a command that does the same on runs that software cannot tell apart, and raises only errors of `es`. -/
def Blind (es : List ErrCode) (x : Cmd α) : Prop := ∀ c c', AlikeRun c c' → AlikeResult es (x c) (x c')

theorem AlikeRun.params {c c' : Run} (h : AlikeRun c c') : c'.st.params = c.st.params := by rw [h.st.1]

theorem AlikeRun.regs {c c' : Run} (h : AlikeRun c c') : c'.st.regs = c.st.regs := by rw [h.st.1]

theorem AlikeRun.mem {c c' : Run} (h : AlikeRun c c') : c'.st.mem = c.st.mem := by rw [h.st.1]

/-- A change of the states that keeps them alike. -/
theorem AlikeRun.update {c c' : Run} (h : AlikeRun c c') {u u' : State} (hu : Alike u u') :
    AlikeRun { c with st := u } { c' with st := u' } := ⟨hu, h.reads, h.writes, h.buckets⟩

/-! ## The rules -/

section rules

variable {es : List ErrCode}

theorem Blind.pure (a : α) : Blind es (Cmd.pure a) := fun _ _ h => .ok h

theorem Blind.raise {e : ErrCode} (he : e ∈ es) (info : Word) : Blind es (Cmd.raise e info : Cmd α) :=
  fun _ _ h => .err he h

theorem Blind.getBuckets : Blind es Cmd.getBuckets := by
  intro c c' h
  rw [Cmd.getBuckets_apply, Cmd.getBuckets_apply, h.buckets]
  exact .ok h

theorem Blind.modifyBuckets (f : List Bucket → List Bucket) : Blind es (Cmd.modifyBuckets f) :=
  fun _ _ h => .ok ⟨h.st, h.reads, h.writes, congrArg f h.buckets⟩

theorem Blind.declare (reads writes : List Span) : Blind es (declareFootprint reads writes) :=
  fun _ _ h => .ok ⟨h.st, congrArg (reads ++ ·) h.reads, congrArg (writes ++ ·) h.writes, h.buckets⟩

theorem Blind.bind {x : Cmd α} {f : α → Cmd β} (hx : Blind es x) (hf : ∀ a, Blind es (f a)) :
    Blind es (Cmd.bind x f) := by
  intro c c' h
  have hres := hx c c' h
  unfold Cmd.bind
  generalize x c = res, x c' = res' at hres
  cases hres with
  | ok h => exact hf _ _ _ h
  | err he h => exact .err he h

theorem Blind.ite {p : Prop} [Decidable p] {x y : Cmd α} (hx : Blind es x) (hy : Blind es y) :
    Blind es (if p then x else y) := by split <;> assumption

theorem Blind.forRange {f : Nat → Cmd Unit} (hf : ∀ k, Blind es (f k)) (lo n : Nat) :
    Blind es (Cmd.forRange lo n f) := by
  induction n generalizing lo with
  | zero => exact .pure ()
  | succ n ih => exact .bind (hf lo) fun _ => ih (lo + 1)

theorem Blind.mapRange {f : Nat → Cmd α} (hf : ∀ k, Blind es (f k)) (lo n : Nat) :
    Blind es (Cmd.mapRange lo n f) := by
  induction n generalizing lo with
  | zero => exact .pure []
  | succ n ih => exact .bind (hf lo) fun _ => .bind (ih (lo + 1)) fun _ => .pure _

theorem Blind.forList {f : α → Cmd Unit} (hf : ∀ a, Blind es (f a)) (as : List α) :
    Blind es (Cmd.forList as f) := by
  induction as with
  | nil => exact .pure ()
  | cons a as ih => exact .bind (hf a) fun _ => ih

/-! ## Reads and writes -/

variable (hbus : .bus ∈ es)
include hbus

theorem Blind.admitAccess (n : Nat) (a : Int) : Blind es (admitAccess n a) := by
  intro c c' h
  unfold Machine.admitAccess
  rw [h.params]
  cases firstRefused c.st.params a n with
  | none => exact .ok h
  | some _ => exact .err hbus h

theorem Blind.readBytes (n : Nat) (a : Int) : Blind es (readBytes n a) := by
  refine .bind (.admitAccess hbus n a) fun _ c c' h => ?_
  rw [Cmd.get_apply, Cmd.get_apply, h.mem]
  exact .ok h

theorem Blind.memReadWord (a : Int) : Blind es (memReadWord a) := .bind (.readBytes hbus 4 a) fun _ => .pure _

theorem Blind.memReadByte (a : Int) : Blind es (memReadByte a) := .bind (.readBytes hbus 1 a) fun _ => .pure _

theorem Blind.readUnordered (as : List Int) : Blind es (readUnordered as) := by
  intro c c' h
  unfold Machine.readUnordered
  rw [h.params, h.regs, h.mem]
  split
  · exact .ok h
  · split <;> exact .err hbus h

theorem Blind.memWrite (a : Int) (bs : List Byte) : Blind es (memWrite a bs) :=
  .bind (.admitAccess hbus _ a) fun _ _ _ h => .ok (h.update (alike_store h.st a.toNat bs))

theorem Blind.append (hfull : .outFull ∈ es) (bs : List Byte) : Blind es (append bs) := by
  intro c c' h
  unfold Machine.append
  rw [Cmd.bind_ok (Cmd.get_apply State.regs c), Cmd.bind_ok (Cmd.get_apply State.regs c'), h.regs]
  have hrest : Blind es (if c.st.regs.outCount = c.st.regs.outCap then Cmd.raise .outFull c.st.regs.outCount
      else Cmd.bind (Machine.memWrite (appendAddr c.st.regs bs.length) bs) fun _ => Cmd.modify State.countElement) :=
    .ite (.raise hfull _) (.bind (.memWrite hbus _ _) fun _ _ _ h => .ok (h.update (alike_countElement h.st)))
  exact hrest c c' h

theorem Blind.appendWords (hfull : .outFull ∈ es) (ws : List Word) : Blind es (Cmd.forList ws appendWord) :=
  .forList (fun w => .append hbus hfull (wordBytes w)) ws

theorem Blind.walkRows {r : ParamRegs} {f : Survivor → Cmd Unit} (hf : ∀ v, Blind es (f v)) (lo n : Nat) :
    Blind es (walkRows r f lo n) :=
  .forRange (fun _ => .forRange (fun _ => .bind (.readUnordered hbus _) fun _ => .forList hf _) _ _) _ _

theorem Blind.boundedKeypoint (hbounds : .kpBounds ∈ es) (r : ParamRegs) (k : Nat) : Blind es (boundedKeypoint r k) :=
  .bind (.memReadWord hbus _) fun _ => .ite (.pure _) (.raise hbounds _)

theorem Blind.queryEntries (hfull : .outFull ∈ es) (x y r : Int) (start : Word) (e : Nat) (b : Bucket) :
    Blind es (queryEntries x y r start e b) := by
  induction b generalizing e with
  | nil => exact .pure ()
  | cons kp b ih => exact .bind (.ite (.append hbus hfull _) (.pure ())) fun _ => ih (e + 1)

theorem Blind.indexBucket (hfull : .outFull ∈ es) (g : Grid) (q : Nat) : Blind es (indexBucket g q) :=
  .bind (fun _ _ h => .ok (h.update (alike_setSlot h.st q))) fun _ => .appendWords hbus hfull _

end rules

/-! ## The work of each command -/

/-- The errors that 60_exceptions R288 lists for each command. -/
def listedErrors : Instr → List ErrCode
  | .detect | .score | .gridBucket => [.badParam, .bus]
  | .extract | .extractBkt | .atan2 => [.badParam, .bus, .outFull]
  | .gridReduce => [.noGrid, .badParam]
  | .gridIndex | .gridQuery => [.noGrid, .badParam, .outFull, .bus]
  | .centroid => [.badParam, .bus, .kpBounds, .outFull]
  | .describe => [.badParam, .bus, .kpBounds, .badBin, .outFull]

theorem describeKeypoint_blind (p : Params) (r : ParamRegs) (k : Nat) :
    Blind (listedErrors .describe) (describeKeypoint p r k) :=
  have hbus : .bus ∈ listedErrors .describe := by decide
  .bind (.boundedKeypoint hbus (by decide) r k) fun _ => .ite (.raise (by decide) _) <|
    .bind (.mapRange (fun _ => .bind (.mapRange (fun _ => .bind (.readUnordered hbus _) fun _ => .pure _) _ _)
      fun _ => .pure _) _ _) fun _ => .appendWords hbus (by decide) _

theorem centroidGroup_blind (p : Params) (r : ParamRegs) (g : Nat) :
    Blind (listedErrors .centroid) (centroidGroup p r g) :=
  have hbus : .bus ∈ listedErrors .centroid := by decide
  have hlane (k : Nat) : Blind (listedErrors .centroid) (centroidLane p r k) :=
    .ite (.bind (.boundedKeypoint hbus (by decide) r k) fun _ => .bind (.declare _ _) fun _ =>
      .bind (.readUnordered hbus _) fun _ => .pure _) (.pure _)
  .bind (.mapRange hlane _ _) fun _ => .bind (.appendWords hbus (by decide) _) fun _ =>
    .appendWords hbus (by decide) _

/-- The work of every command reads no storage that is not valid, and raises only the command's errors. -/
theorem work_blind (i : Instr) (s : State) : Blind (listedErrors i) (work i s) := by
  cases i with
  | detect =>
    have hbus : .bus ∈ listedErrors .detect := by decide
    exact .forRange (fun _ => .bind (.forRange (fun _ => .bind (.readUnordered hbus _) fun _ => .memWrite hbus _ _) _ _)
      fun _ => .ite (.pure _) (.bind (.memWrite hbus _ _) fun _ => .memWrite hbus _ _)) _ _
  | score =>
    have hbus : .bus ∈ listedErrors .score := by decide
    exact .forRange (fun _ => .forRange (fun _ => .bind (.memReadByte hbus _) fun _ => .ite (.pure _) <|
      .bind (.readUnordered hbus _) fun _ => .memWrite hbus _ _) _ _) _ _
  | extract => exact .walkRows (by decide) (fun v => .append (by decide) (by decide) (wordBytes v.word)) _ _
  | extractBkt =>
    have hbus : .bus ∈ listedErrors .extractBkt := by decide
    dsimp only [work]
    exact .bind (.modifyBuckets _) fun _ => .forRange (fun _ =>
      .bind (.walkRows hbus (fun _ => .modifyBuckets _) _ _) fun _ => .bind .getBuckets fun _ =>
        .bind (.forList (fun b => .appendWords hbus (by decide) b) _) fun _ => .modifyBuckets _) _ _
  | gridBucket =>
    have hbus : .bus ∈ listedErrors .gridBucket := by decide
    dsimp only [work]
    exact .bind (.modifyBuckets _) fun _ => .walkRows hbus (fun _ => .modifyBuckets _) _ _
  | gridReduce => exact .pure _
  | gridIndex =>
    exact .forRange (fun _ => .forRange (fun _ => .indexBucket (by decide) (by decide) _ _) _ _) _ _
  | gridQuery =>
    exact .ite (.pure _) <| .forRange (fun _ => .forRange (fun _ =>
      .queryEntries (by decide) (by decide) _ _ _ _ _ _) _ _) _ _
  | centroid => exact .forRange (centroidGroup_blind _ _) _ _
  | atan2 =>
    have hbus : .bus ∈ listedErrors .atan2 := by decide
    exact .forRange (fun _ => .bind (.memReadWord hbus _) fun _ => .bind (.memReadWord hbus _) fun _ =>
      .append hbus (by decide) _) _ _
  | describe => exact .forRange (describeKeypoint_blind _ _) _ _

end Sys2Proof.Proofs
end

section
/-! Whole commands on states that software cannot tell apart: the checks, the work, and what a command sets at its
completion; and the errors that each command raises (60_exceptions R288, 70_reset_and_hazards R300, R321). -/

namespace Sys2Proof.Proofs

open Sys2Proof.Machine Sys2Proof.Safety

variable {i : Instr} {s s' : State}

/-! ## The cells that GRID_QUERY visits -/

theorem forRange_congr {f f' : Nat → Cmd Unit} {lo n : Nat} (h : ∀ k, k < lo + n → f k = f' k) :
    Cmd.forRange lo n f = Cmd.forRange lo n f' := by
  induction n generalizing lo with
  | zero => rfl
  | succ n ih =>
    rw [Cmd.forRange_succ, Cmd.forRange_succ, h lo (by omega), ih fun k hk => h k (by omega)]

theorem clampedCell_lt {cells : Nat} (h : 0 < cells) (v border : Int) (logB : Nat) :
    clampedCell v border logB cells < cells := by
  unfold clampedCell clampInt
  omega

/-- GRID_QUERY reads no slot but those of the buckets (43_feature_grid R204, R205). -/
theorem queryCells_congr {g : Grid} {l l' : List Word} (hcells : ¬ (g.hb = 0 ∨ g.vb = 0))
    (h : ∀ q, q < g.vb * g.hb → l'.getD q 0 = l.getD q 0) (x y r : Int) :
    queryCells g l' x y r = queryCells g l x y r := by
  refine forRange_congr fun i hi => forRange_congr fun j hj => ?_
  have hrow := clampedCell_lt (cells := g.vb) (by omega) (y + r) g.border g.logB
  have hcol := clampedCell_lt (cells := g.hb) (by omega) (x + r) g.border g.logB
  have hlo := clampedCell_lt (cells := g.vb) (by omega) (y - r) g.border g.logB
  have hlo' := clampedCell_lt (cells := g.hb) (by omega) (x - r) g.border g.logB
  have hq : i * g.hb + j < g.vb * g.hb := by
    calc i * g.hb + j
      _ < i * g.hb + g.hb := by omega
      _ = (i + 1) * g.hb := (Nat.succ_mul i g.hb).symm
      _ ≤ g.vb * g.hb := Nat.mul_le_mul_right _ (by omega)
  rw [h _ hq]

/-! ## The three parts of a command -/

/-- A command that passes its checks does the same work in both. -/
theorem work_eq_of_alike (h : Alike s s') (hgrid : missingGrid s i = none) : work i s' = work i s := by
  obtain ⟨g, l, n, rfl, hsame, hslots⟩ := alike_hidden h
  cases i with
  | gridIndex =>
    obtain rfl := hsame (gridValid_of_missingGrid (.inl rfl) hgrid)
    rfl
  | gridQuery =>
    have hv := gridValid_of_missingGrid (.inr rfl) hgrid
    have hi : s.status.indexValid = true := by
      simp only [missingGrid, hv] at hgrid
      by_contra hi
      simp [hi] at hgrid
    obtain rfl := hsame hv
    dsimp only [work]
    split
    · rfl
    · next hcells => exact queryCells_congr hcells (hslots hv hi) _ _ _
  | detect | score | extract | extractBkt | gridBucket | gridReduce | centroid | atan2 | describe => rfl

theorem alikeRun_entered (h : Alike s s') (i : Instr) : AlikeRun (entered i s) (entered i s') := by
  have hst : Alike (enteredState i s) (enteredState i s') := by
    cases i with
    | extractBkt | gridBucket => exact alike_loseGrid h
    | gridIndex => exact alike_dropIndex h
    | detect | score | extract | gridReduce | gridQuery | centroid | atan2 | describe => exact h
  obtain ⟨g, l, n, rfl, _, _⟩ := alike_hidden h
  refine ⟨hst, ?_, ?_, rfl⟩ <;> cases i <;> rfl

/-- Where GRID_INDEX has appended every entry, the slots of both are the positions of the buckets' first entries. -/
theorem slots_eq_of_gridIndex (h : Alike s s') (hpass : Passes .gridIndex s) {c c' : Run}
    (hc : work .gridIndex s (entered .gridIndex s) = .ok () c)
    (hc' : work .gridIndex s (entered .gridIndex s') = .ok () c') {q : Nat} (hq : q < s.grid.vb * s.grid.hb) :
    c'.st.index.getD q 0 = c.st.index.getD q 0 := by
  have hregs : s'.regs = s.regs := by rw [h.1]
  have hfits : Fits s.regs := room_of_legal rfl hpass.1
  have hslots := (indexed_of_loops (c := entered .gridIndex s) hfits hc).2 q hq
  have hslots' := (indexed_of_loops (c := entered .gridIndex s') (show Fits s'.regs from hregs ▸ hfits) hc').2 q hq
  calc c'.st.index.getD q 0
    _ = s'.regs.outCount + BitVec.ofNat 32 (entriesBefore s.grid.buckets q) := hslots'
    _ = s.regs.outCount + BitVec.ofNat 32 (entriesBefore s.grid.buckets q) := by rw [hregs]
    _ = c.st.index.getD q 0 := hslots.symm

/-- What a command sets at its completion: the same grid, the reduced grid, or an index whose slots agree. -/
theorem finale_alike (h : Alike s s') (hpass : Passes i s) {c c' : Run}
    (hc : work i s (entered i s) = .ok () c) (hc' : work i s (entered i s') = .ok () c') (hrun : AlikeRun c c') :
    AlikeResult (listedErrors i) (finale i s c) (finale i s' c') := by
  have hregs : s'.regs = s.regs := by rw [h.1]
  cases i with
  | gridBucket =>
    have hlost : c.st.status.indexValid = false := by rw [st_of_gridBucket hc]; rfl
    have hsame : finale .gridBucket s' c' =
        .ok () { c' with st := c'.st.installGrid (builtGrid s.regs c.buckets) } := by
      rw [← hregs, ← hrun.buckets]
      rfl
    rw [hsame]
    exact .ok (hrun.update (alike_installGrid hrun.st hlost _))
  | gridReduce =>
    cases hc
    have hv : s.status.gridValid = true := by
      by_contra hv
      simpa [missingGrid, hv] using hpass.2
    exact .ok (hrun.update (alike_reduce hrun.st hv))
  | gridIndex =>
    have hgrid : c.st.grid = s.grid :=
      (indexed_of_loops (c := entered .gridIndex s) (room_of_legal rfl hpass.1) hc).1.sameStorage.grid
    exact .ok (hrun.update (alike_validateIndex hrun.st fun q hq =>
      slots_eq_of_gridIndex h hpass hc hc' (hgrid ▸ hq)))
  | detect | score | extract | extractBkt | gridQuery | centroid | atan2 | describe => exact .ok hrun

/-- The work of a command that passes its checks, and what it sets then, end alike in both. -/
theorem worked_alike (h : Alike s s') (hpass : Passes i s) :
    AlikeResult (listedErrors i) (worked i s) (worked i s') := by
  have hwork := work_blind i s _ _ (alikeRun_entered h i)
  unfold worked
  rw [work_eq_of_alike h hpass.2]
  generalize hc : work i s (entered i s) = res, hc' : work i s (entered i s') = res' at hwork
  cases hwork with
  | ok hrun =>
    rw [Cmd.bind_ok hc, Cmd.bind_ok hc']
    exact finale_alike h hpass hc hc' hrun
  | err he hrun =>
    rw [Cmd.bind_err hc, Cmd.bind_err hc']
    exact .err he hrun

/-! ## Whole commands -/

theorem noGrid_mem_listedErrors {info : Word} (h : missingGrid s i = some info) : ErrCode.noGrid ∈ listedErrors i := by
  cases i with
  | gridReduce | gridIndex | gridQuery => decide
  | detect | score | extract | extractBkt | gridBucket | centroid | atan2 | describe => cases h

theorem badParam_mem_listedErrors (i : Instr) : ErrCode.badParam ∈ listedErrors i := by cases i <;> decide

/-- The body of a command ends alike in both: it fails the same check, or does its work. -/
theorem body_alike (h : Alike s s') (i : Instr) :
    AlikeResult (listedErrors i) (body i s s.begin) (body i s' s'.begin) := by
  have hbegin : AlikeRun s.begin s'.begin := ⟨h, rfl, rfl, rfl⟩
  have hchecks : paramChecks s'.params s'.regs i = paramChecks s.params s.regs i := by rw [h.1]
  have hmissing : missingGrid s' i = missingGrid s i := by rw [h.1]; cases i <;> rfl
  cases hgrid : missingGrid s i with
  | some info =>
    rw [body_of_missingGrid hgrid, body_of_missingGrid (hmissing.trans hgrid)]
    exact .err (noGrid_mem_listedErrors hgrid) hbegin
  | none =>
    cases hfail : firstFailed (paramChecks s.params s.regs i) with
    | some info =>
      rw [body_of_firstFailed hgrid hfail, body_of_firstFailed (hmissing.trans hgrid) (hchecks ▸ hfail)]
      exact .err (badParam_mem_listedErrors i) hbegin
    | none =>
      have hlegal' : Legal i s' := by unfold Legal; rwa [hchecks]
      rw [body_passes ⟨hfail, hgrid⟩, body_passes ⟨hlegal', hmissing.trans hgrid⟩]
      exact worked_alike h ⟨hfail, hgrid⟩

/-- Bodies that end alike make whole commands that end alike. -/
theorem runCommand_alike {es : List ErrCode} {x x' : Cmd Unit}
    (h : AlikeResult es (x s.begin) (x' s'.begin)) :
    OutcomeAlike (runCommand (refreshed i) x s) (runCommand (refreshed i) x' s') := by
  unfold runCommand
  generalize x s.begin = res, x' s'.begin = res' at h
  cases h with
  | ok h =>
    dsimp only
    rw [h.reads, h.writes]
    split
    · rfl
    · exact alike_finish (alike_refreshed h.st i)
  | @err e info _ _ _ h =>
    dsimp only
    rw [h.reads, h.writes]
    split
    · rfl
    · exact alike_raise (alike_refreshed h.st i) e info

/-- Settles O59: no part of a command reads storage that is not valid. -/
theorem unspecifiedStorageIsNotObservable : Obligations.UnspecifiedStorageIsNotObservable := by
  intro i s s' h
  rw [exec_eq, exec_eq]
  exact runCommand_alike (body_alike h i)

/-! ## The errors that a command raises -/

/-- A body that ends without an error leaves ERR as it was. -/
theorem err_of_body_ok {c : Run} (h : body i s s.begin = .ok () c) : c.st.status.err = s.status.err := by
  have hleaves : Leaves i s c.st := by
    cases i with
    | detect => exact (detectBody_memOnly s.begin).ok h
    | score => exact (scoreBody_memOnly s.begin).ok h
    | extract => exact (extractBody_grows (c := s.begin) rfl).ok h
    | extractBkt => exact (extractBktBody_leaves (c := s.begin) rfl).ok h
    | gridBucket => exact (gridBucketBody_leaves (c := s.begin)).ok h
    | gridReduce => exact (gridReduceBody_leaves (c := s.begin)).ok h
    | gridIndex => exact (gridIndexBody_leaves (c := s.begin)).ok h
    | gridQuery => exact (gridQueryBody_grows (c := s.begin) rfl).ok h
    | centroid => exact (centroidBody_grows (c := s.begin) rfl).ok h
    | atan2 => exact (atan2Body_grows (c := s.begin) rfl).ok h
    | describe => exact (describeBody_grows (c := s.begin) rfl).ok h
  exact (sameControl_of_leaves hleaves).err

theorem errCode_mem_listedErrors {t : State} (hs : s.status.err = false) (h : exec i s = .next t)
    (ht : t.status.err = true) : t.status.errCode ∈ listedErrors i := by
  have hbody := body_alike (alike_refl s) i
  rcases (exec_next h).2 with ⟨c, hc, rfl⟩ | ⟨e, info, c, hc, rfl⟩
  · rw [State.finish_status, Status.ended_err, refreshed_status, err_of_body_ok hc, hs] at ht
    cases ht
  · rw [hc] at hbody
    cases hbody with
    | err he => exact he

/-- Settles O27: a command that shows an error has raised it, and raises only those of its list. -/
theorem commandsRaiseOnlyTheirErrors : Obligations.CommandsRaiseOnlyTheirErrors := by
  intro i s t hs h ht
  have hmem := errCode_mem_listedErrors hs h ht
  cases i <;> exact hmem

end Sys2Proof.Proofs
end
